-- ==== Sys2Proof/Word.lean ====
section
/-! DEFINITION. The names of the words of fixed width. A value whose width is a parameter of R6 (a cell, `state`, `row`,
`pass`, `last_action`, the ports `now` and `frame_in`) is a natural number with its width in `Config`: R11 evaluates
every expression on natural numbers and stores none above its width. -/

namespace Sys2Proof

/-- The shift word, `WORD_W` = 16 bits (R6, R71). -/
abbrev ShiftWord := BitVec 16

/-- The row field of the shift word, `ROW_FIELD_W` = 10 bits, active low (R6, R72). -/
abbrev RowField := BitVec 10

/-- The column field of the shift word, `COL_FIELD_W` = 6 bits, active high (R6, R73). -/
abbrev ColField := BitVec 6

end Sys2Proof
end

