-- ==== Sys2Proof/Config.lean ====
section
/-! DEFINITION. The parameters of the block (R6): the constants the source fixes, and the record of those that
an instance is built with; and the free values: what the external register holds when it powers up (R161). -/

namespace Sys2Proof

/-- Rows of the matrix (R6). -/
def numRows : Nat := 10

/-- Columns of the matrix (R6). -/
def numCols : Nat := 6

/-- Cells of the frame buffer (R6, R50): the frame buffer is addressed by 0 to `numCells - 1`. -/
def numCells : Nat := 60

/-- `ROW_DISPLAY_CYCLE`, microseconds (R6, R149). -/
def rowDisplayCycle : Nat := 500

/-- `MIN_STEP_INTERVAL`, microseconds (R6, R149). -/
def minStepInterval : Nat := 2

/-- `INTENSITY_MAX`, the highest intensity of the host's contract (R6, R93). -/
def intensityMax : Nat := 9

/-- The levels of the three output lines, in the order the spec writes them. -/
structure LineLevels where
  data : Bool
  clk  : Bool
  oe   : Bool
  deriving DecidableEq, Repr

/-- The construction parameters of one instance (R6, R36). A parameter the spec fixes by decision is a field here with
the spec's default; no step changes any of them (log entries 11 and 27). -/
structure Config where
  /-- `MAX_INTENSITY`, legal range 0 to 8, default 1 (R6, D6). -/
  maxIntensity : Fin 9 := 1
  /-- `OE_BLANK_LEVEL`: the level of `OE` that blanks the external register (R6, D12). PRESUMED (log entry
  12). -/
  oeBlankLevel : Bool := true
  /-- `LINE_RESET`: the levels `INIT` drives (R6, D13). PRESUMED (log entry 13). -/
  lineReset : LineLevels := ⟨false, false, false⟩
  /-- `SETFRAME_ATOMIC`: whether the copy of a frame is one event (R6, R55, D10). -/
  setframeAtomic : Bool := false
  /-- The value `INIT` gives `last_action`, default 0 (R35, D15, U3). PRESUMED (log entry 16). -/
  lastActionReset : Nat := 0
  /-- `INTENSITY_W`: bits of one frame-buffer cell (R6, D5). -/
  intensityW : Nat := 4
  /-- `STATE_W`: bits of `state` (R6, D4). -/
  stateW : Nat := 8
  /-- `ROW_W`: bits of `row` (R6, D23). -/
  rowW : Nat := 4
  /-- `PASS_W`: bits of `pass` (R6, D23). -/
  passW : Nat := 4
  /-- `TIME_W`: bits of the port `now` and of `last_action` (R6, D7). PRESUMED (log entry 15). -/
  timeW : Nat := 32
  deriving DecidableEq, Repr

/-- The parameters at the spec's defaults (R6). -/
def Config.default : Config where

/-- `SR` as the external register powers up (R150, U12). A free value: nothing constrains it (log entry 1). -/
opaque Config.powerUpSr : ShiftWord

/-- `QR` as the external register powers up, so what the enabled outputs show until the first `SEND` (R161, U12). A free
value: nothing constrains it (log entry 1). -/
opaque Config.powerUpQr : ShiftWord

/-- The widths hold what is stored in them: an intensity of 9, a state code above the four defined ones, the last row,
the top of the range of `MAX_INTENSITY`, the reset stamp and the two intervals (D4, D5, D23). A premise of claims;
DEDUCED (log entry 31). -/
def Config.widthsLegal (c : Config) : Bool :=
  decide (4 ≤ c.intensityW ∧ 3 ≤ c.stateW ∧ 4 ≤ c.rowW ∧ 4 ≤ c.passW
    ∧ rowDisplayCycle < 2 ^ c.timeW ∧ c.lastActionReset < 2 ^ c.timeW)

end Sys2Proof
end

