-- ==== Sys2Proof/Syntax.lean ====
section
/-! DEFINITION. The rows of spec/opcode_table.json as one inductive, and the six encoding formats of R70 (with the
reset pin) as another. -/

namespace Sys2Proof

/-- The formats of R70 and the pin `rst` of R77, as the opcode table names them. -/
inductive Format where
  | hostcmd | rst | state | srword | serial | outcome
  deriving DecidableEq, Repr

/-- The operations, arms, words and codes of the opcode table, one constructor a row. -/
inductive Instr where
  /-- `NOP`, op 000 (R77). -/
  | nop
  /-- `SETFRAME`, op 001, with the values on `frame_in`, cell 0 first (R90). -/
  | setframe (frame : List Nat)
  /-- `ISREADY`, op 010 (R91). -/
  | isready
  /-- `STEP`, op 011 (R131). -/
  | step
  /-- `STEPIRQ`, op 100 (R132). -/
  | stepirq
  /-- The reserved op 101 (R80). -/
  | reservedOp5
  /-- The reserved op 110 (R80). -/
  | reservedOp6
  /-- The reserved op 111 (R80). -/
  | reservedOp7
  /-- `INIT`, the pin `rst` (R160). -/
  | init
  /-- The arm of `state` 0x00 (R101). -/
  | stepIdle
  /-- The arm of `state` 0x01 (R102). -/
  | stepNewdata
  /-- The arm of `state` 0x02 (R103). -/
  | stepComputerow
  /-- The arm of `state` 0x03 (R108). -/
  | stepDisplayrow
  /-- The arm of any other `state`, with the code that selected it (R107). -/
  | stepCorrupt (code : Nat)
  /-- A shift word with row 0 active (R71, R72). -/
  | wordR0 (col : ColField)
  /-- A shift word with row 1 active. -/
  | wordR1 (col : ColField)
  /-- A shift word with row 2 active. -/
  | wordR2 (col : ColField)
  /-- A shift word with row 3 active. -/
  | wordR3 (col : ColField)
  /-- A shift word with row 4 active. -/
  | wordR4 (col : ColField)
  /-- A shift word with row 5 active. -/
  | wordR5 (col : ColField)
  /-- A shift word with row 6 active. -/
  | wordR6 (col : ColField)
  /-- A shift word with row 7 active. -/
  | wordR7 (col : ColField)
  /-- A shift word with row 8 active. -/
  | wordR8 (col : ColField)
  /-- A shift word with row 9 active. -/
  | wordR9 (col : ColField)
  /-- `SEND(v)` (R120). -/
  | send (v : ShiftWord)
  /-- The outcome code 00 (R77, R130). -/
  | outcomeExecuted
  /-- The outcome code 01. -/
  | outcomeAborted
  /-- The outcome code 10. -/
  | outcomeSkipped
  /-- The reserved outcome code 11. -/
  | outcomeReserved
  deriving DecidableEq, Repr

/-- An encoded instruction: a format of R70 and its bits. `hostcmd` is the port `op` with the port `frame_in` beside it
(R37); `serial` is the 17 cells of a serial frame, the first cell sent in the most significant bit (R74). -/
inductive Code where
  | hostcmd (op : BitVec 3) (frameIn : Nat)
  | rst (level : BitVec 1)
  | state (code : Nat)
  | srword (w : ShiftWord)
  | serial (cells : BitVec 17)
  | outcome (code : BitVec 2)
  deriving DecidableEq, Repr

/-- The format of an encoded instruction. -/
def Code.format : Code → Format
  | .hostcmd _ _ => .hostcmd
  | .rst _ => .rst
  | .state _ => .state
  | .srword _ => .srword
  | .serial _ => .serial
  | .outcome _ => .outcome

/-- The column "format" of the opcode table. -/
def Instr.format : Instr → Format
  | .nop | .setframe _ | .isready | .step | .stepirq | .reservedOp5 | .reservedOp6 | .reservedOp7 => .hostcmd
  | .init => .rst
  | .stepIdle | .stepNewdata | .stepComputerow | .stepDisplayrow | .stepCorrupt _ => .state
  | .wordR0 _ | .wordR1 _ | .wordR2 _ | .wordR3 _ | .wordR4 _ => .srword
  | .wordR5 _ | .wordR6 _ | .wordR7 _ | .wordR8 _ | .wordR9 _ => .srword
  | .send _ => .serial
  | .outcomeExecuted | .outcomeAborted | .outcomeSkipped | .outcomeReserved => .outcome

/-- The active row and the column mask of a shift word row of the table (R84). -/
def Instr.shiftFields : Instr → Option (Nat × ColField)
  | .wordR0 col => some (0, col)
  | .wordR1 col => some (1, col)
  | .wordR2 col => some (2, col)
  | .wordR3 col => some (3, col)
  | .wordR4 col => some (4, col)
  | .wordR5 col => some (5, col)
  | .wordR6 col => some (6, col)
  | .wordR7 col => some (7, col)
  | .wordR8 col => some (8, col)
  | .wordR9 col => some (9, col)
  | .nop | .setframe _ | .isready | .step | .stepirq | .reservedOp5 | .reservedOp6 | .reservedOp7 | .init => none
  | .stepIdle | .stepNewdata | .stepComputerow | .stepDisplayrow | .stepCorrupt _ => none
  | .send _ | .outcomeExecuted | .outcomeAborted | .outcomeSkipped | .outcomeReserved => none

end Sys2Proof
end

