-- ==== Sys2Proof/WellFormed.lean ====
section
/-! DEFINITION. Which terms of `Instr` are instructions of the block: the checks the type does not make. -/

namespace Sys2Proof

/-- A frame is exactly `numCells` values (R53, R75, U1). -/
def frameSized (frame : List Nat) : Bool :=
  frame.length == numCells

/-- Every value of a frame fits a cell (R6, R75). Values of 10 and more are outside the host's contract but are
instructions where they fit: the block does not check them (R80), DEDUCED (log entry 5). -/
def frameFits (cfg : Config) (frame : List Nat) : Bool :=
  frame.all fun v => decide (v < 2 ^ cfg.intensityW)

/-- The code that selects the corrupt arm is none of the four defined ones and fits the register (R6, R76). -/
def corruptCode (cfg : Config) (code : Nat) : Bool :=
  decide (4 ≤ code ∧ code < 2 ^ cfg.stateW)

/-- The well-formed instructions of an instance. -/
def Instr.wf (cfg : Config) : Instr → Bool
  | .setframe frame => frameSized frame && frameFits cfg frame
  | .stepCorrupt code => corruptCode cfg code
  | .nop | .isready | .step | .stepirq | .reservedOp5 | .reservedOp6 | .reservedOp7 | .init => true
  | .stepIdle | .stepNewdata | .stepComputerow | .stepDisplayrow => true
  | .wordR0 _ | .wordR1 _ | .wordR2 _ | .wordR3 _ | .wordR4 _ => true
  | .wordR5 _ | .wordR6 _ | .wordR7 _ | .wordR8 _ | .wordR9 _ => true
  | .send _ | .outcomeExecuted | .outcomeAborted | .outcomeSkipped | .outcomeReserved => true

/-- The host's contract for the values of a frame: exactly 60, each 0 to 9 (R93). A premise of claims, checked by
nothing in the block. -/
def frameKeepsContract (frame : List Nat) : Bool :=
  frameSized frame && frame.all (fun v => decide (v ≤ intensityMax))

end Sys2Proof
end

