-- ==== Sys2Proof/Decode.lean ====
section
/-! DEFINITION. From encodings to instructions (R70 to R80, R84), the encoder written from the same tables, and the
reading of a word as spec/opcode_table.json numbers it. -/

namespace Sys2Proof

/-- Why an encoding is no instruction (log entries 22 and 23). -/
inductive DecodeError where
  /-- The pin `rst` at 0 requests nothing: the table has a row for 1 only (R77). Safe. -/
  | resetNotAsserted
  /-- A word whose row field does not have exactly one zero: the block never emits it (R79, R84). Safe. -/
  | notOneActiveRow
  /-- A serial frame whose latch cell does not hold `v[0]` (R74). Safe. -/
  | latchCellNotHeld
  deriving DecidableEq, Repr

/-- The cell `i` on `frame_in` with cells of `w` bits: bits wi+w-1 to wi, so 4i+3 to 4i at the default (R75). -/
def cellOf (w : Nat) (bits : Nat) (i : Nat) : Nat := bits / 2 ^ (w * i) % 2 ^ w

/-- The cells on `frame_in`, cell 0 first (R75). -/
def unpackFrame (w : Nat) (bits : Nat) : List Nat :=
  (List.range numCells).map (cellOf w bits)

/-- The port `frame_in` that carries the cells: the number whose digits of `w` bits they are, cell 0 the least
significant (R75). -/
def packFrame (w : Nat) : List Nat → Nat
  | [] => 0
  | v :: vs => v + 2 ^ w * packFrame w vs

/-- The port `op` (R77, R80): every code names a row. -/
def decodeHostcmd (cfg : Config) (op : BitVec 3) (frameIn : Nat) : Instr :=
  match op.toNat with
  | 0 => .nop
  | 1 => .setframe (unpackFrame cfg.intensityW frameIn)
  | 2 => .isready
  | 3 => .step
  | 4 => .stepirq
  | 5 => .reservedOp5
  | 6 => .reservedOp6
  | _ => .reservedOp7

/-- The register `state` as the selector of an arm (R76, R100). -/
def decodeState (code : Nat) : Instr :=
  match code with
  | 0 => .stepIdle
  | 1 => .stepNewdata
  | 2 => .stepComputerow
  | 3 => .stepDisplayrow
  | _ => .stepCorrupt code

/-- The row field `w[9:0]` (R71, R84). -/
def rowselOf (w : ShiftWord) : RowField := w.extractLsb' 0 10

/-- The column field `w[15:10]` (R71, R84). -/
def colOf (w : ShiftWord) : ColField := w.extractLsb' 10 6

/-- A shift word read back (R72, R84): the row whose select is the one zero. -/
def decodeSrword (w : ShiftWord) : Except DecodeError Instr :=
  match (rowselOf w).toNat with
  | 0x3FE => .ok (.wordR0 (colOf w))
  | 0x3FD => .ok (.wordR1 (colOf w))
  | 0x3FB => .ok (.wordR2 (colOf w))
  | 0x3F7 => .ok (.wordR3 (colOf w))
  | 0x3EF => .ok (.wordR4 (colOf w))
  | 0x3DF => .ok (.wordR5 (colOf w))
  | 0x3BF => .ok (.wordR6 (colOf w))
  | 0x37F => .ok (.wordR7 (colOf w))
  | 0x2FF => .ok (.wordR8 (colOf w))
  | 0x1FF => .ok (.wordR9 (colOf w))
  | _ => .error .notOneActiveRow

/-- The cells of the serial frame of `v` (R74): `v[15]` first, then the latch cell, where `DATA` still holds `v[0]`. -/
def serialCells (v : ShiftWord) : BitVec 17 :=
  v ++ BitVec.ofBool (v.getLsbD 0)

/-- A serial frame read back: sixteen data cells and a latch cell that holds the last of them (R74). -/
def decodeSerial (cells : BitVec 17) : Except DecodeError Instr :=
  if cells.getLsbD 0 = cells.getLsbD 1 then .ok (.send (cells.extractLsb' 1 16)) else .error .latchCellNotHeld

/-- The port `outcome` (R77). -/
def decodeOutcome (code : BitVec 2) : Instr :=
  match code.toNat with
  | 0 => .outcomeExecuted
  | 1 => .outcomeAborted
  | 2 => .outcomeSkipped
  | _ => .outcomeReserved

/-- An encoding has no bit beyond its port or register (R6, R37): the formats whose width is a parameter. -/
def Code.fits (cfg : Config) : Code → Bool
  | .hostcmd _ frameIn => decide (frameIn < 2 ^ (cfg.intensityW * numCells))
  | .state code => decide (code < 2 ^ cfg.stateW)
  | .rst _ | .srword _ | .serial _ | .outcome _ => true

/-- The decoder of an instance: total, rejecting by name. -/
def decode (cfg : Config) : Code → Except DecodeError Instr
  | .hostcmd op frameIn => .ok (decodeHostcmd cfg op frameIn)
  | .rst level => if level = 1#1 then .ok .init else .error .resetNotAsserted
  | .state code => .ok (decodeState code)
  | .srword w => decodeSrword w
  | .serial cells => decodeSerial cells
  | .outcome code => .ok (decodeOutcome code)

/-- The encoder, from the tables of R72, R74, R75, R76 and R77. An operation without an operand leaves `frame_in` at 0. -/
def encode (cfg : Config) : Instr → Code
  | .nop => .hostcmd 0b000#3 0
  | .setframe frame => .hostcmd 0b001#3 (packFrame cfg.intensityW frame)
  | .isready => .hostcmd 0b010#3 0
  | .step => .hostcmd 0b011#3 0
  | .stepirq => .hostcmd 0b100#3 0
  | .reservedOp5 => .hostcmd 0b101#3 0
  | .reservedOp6 => .hostcmd 0b110#3 0
  | .reservedOp7 => .hostcmd 0b111#3 0
  | .init => .rst 1#1
  | .stepIdle => .state 0x00
  | .stepNewdata => .state 0x01
  | .stepComputerow => .state 0x02
  | .stepDisplayrow => .state 0x03
  | .stepCorrupt code => .state code
  | .wordR0 col => .srword (col ++ 0b1111111110#10)
  | .wordR1 col => .srword (col ++ 0b1111111101#10)
  | .wordR2 col => .srword (col ++ 0b1111111011#10)
  | .wordR3 col => .srword (col ++ 0b1111110111#10)
  | .wordR4 col => .srword (col ++ 0b1111101111#10)
  | .wordR5 col => .srword (col ++ 0b1111011111#10)
  | .wordR6 col => .srword (col ++ 0b1110111111#10)
  | .wordR7 col => .srword (col ++ 0b1101111111#10)
  | .wordR8 col => .srword (col ++ 0b1011111111#10)
  | .wordR9 col => .srword (col ++ 0b0111111111#10)
  | .send v => .serial (serialCells v)
  | .outcomeExecuted => .outcome 0b00#2
  | .outcomeAborted => .outcome 0b01#2
  | .outcomeSkipped => .outcome 0b10#2
  | .outcomeReserved => .outcome 0b11#2

/-- Which format a table word of `nbits` bits is read in. The formats have the widths 1, 2, 3, 8, 16 and 17 (R70) at the default parameters, so a
width given exactly names the format. Given in whole bytes, 8 bits is any of four formats; such a word is read as the
port `op` where it fits its three bits and as the register `state` otherwise. DESIGN CHOICE (log entry 3). The operand
on `frame_in` is zeros. -/
def codeOfTableWord (nbits w : Nat) : Option Code :=
  if nbits = 1 then some (.rst (BitVec.ofNat 1 w))
  else if nbits = 2 then some (.outcome (BitVec.ofNat 2 w))
  else if nbits = 3 then some (.hostcmd (BitVec.ofNat 3 w) 0)
  else if nbits ≤ 8 then
    if w < 8 then some (.hostcmd (BitVec.ofNat 3 w) 0) else some (.state (w % 2 ^ 8))
  else if nbits ≤ 16 then some (.srword (BitVec.ofNat 16 w))
  else if nbits ≤ 24 then some (.serial (BitVec.ofNat 17 w))
  else none

/-- The instruction the decoder of an instance with the default parameters reads from a word of the opcode table. -/
def decodeTableWord (nbits w : Nat) : Option Instr :=
  match codeOfTableWord nbits w with
  | none => none
  | some code =>
    match decode Config.default code with
    | .ok i => some i
    | .error _ => none

end Sys2Proof
end

