-- ==== Sys2Proof/Machine/State.lean ====
section
/-! DEFINITION. The state of the block, of the platform its rules read and write, and of the operations in flight
(R20, R30 to R33, R37), as plain data; the reasons a step can stop; the state after reset. -/

namespace Sys2Proof.Machine

open Sys2Proof

/-- A written cell of the frame buffer: its index and its value. The frame buffer is the block's only memory and its
unit is one cell of `INTENSITY_W` bits (R50). -/
abbrev Cell := Nat × Nat

/-- The three output lines (R29). -/
inductive Line where
  | data | clk | oe
  deriving DecidableEq, Repr

/-- A line write event `Line(L) <- b` (R7, R10). -/
structure LineEvent where
  line  : Line
  level : Bool
  deriving DecidableEq, Repr

/-- One event that an operation in flight still has to make (R7, R33). -/
inductive Work where
  /-- An instruction to be fetched from its encoding and executed. -/
  | run (code : Code)
  /-- The dispatch of `StepCore` on `state` (R100). -/
  | dispatch
  /-- The cell writes of a `SETFRAME` not yet made, by index, and the frame they come from (R90). -/
  | copy (left : List Nat) (frame : List Nat)
  /-- The last event of a `SETFRAME`, `frame_pending <- 1` (R90). -/
  | request
  /-- A line write event of a `SEND` (R121). -/
  | line (e : LineEvent)
  /-- The end of `STEP.COMPUTEROW`: the stamp, and `state <- 3` (R103). -/
  | shown
  /-- Phase 3 of `STEP` (R131). -/
  | phase3
  /-- The platform's return from the interrupt handler (R145). -/
  | leave
  deriving DecidableEq, Repr

/-- What the host drives on the input ports for one normal-context operation (R37). -/
structure PortInput where
  rst     : BitVec 1
  op      : BitVec 3
  frameIn : Nat
  deriving DecidableEq, Repr

/-- A choice the spec leaves to the schedule (R7, R36, R142). -/
inductive Choice where
  /-- `Tick`: real time advances by `more + 1` microseconds, any positive whole number. -/
  | tick (more : Nat)
  /-- The timer interrupt arrives. -/
  | irq
  /-- The current context makes its next event; `pick` chooses the cell if that event is a cell write. -/
  | advance (pick : Nat)
  deriving DecidableEq, Repr

/-- The whole machine. -/
structure State where
  /-- Construction parameters of the instance (R6, R36); no step writes them. -/
  cfg : Config
  /-- `FB`: the cells written so far, index strictly rising (R21, R50). -/
  fb : List Cell
  /-- `state` (R22). -/
  state : Nat
  /-- `row` (R23). -/
  row : Nat
  /-- `pass` (R24). -/
  pass : Nat
  /-- `last_action` (R25). -/
  lastAction : Nat
  /-- `busy` (R26). -/
  busy : Bool
  /-- `frame_pending` (R27). -/
  framePending : Bool
  /-- The line register `DATA` (R29). -/
  data : Bool
  /-- The line register `CLK` (R29). -/
  clk : Bool
  /-- The line register `OE` (R29). -/
  oe : Bool
  /-- The three lines are configured as outputs and drive their pins (R29, R160). -/
  linesDriven : Bool
  /-- The platform's `IE` (R30). -/
  ie : Bool
  /-- Real time τ in microseconds (R31). -/
  tau : Nat
  /-- `SR`, the shift stage of the external register (R32, R150). -/
  sr : ShiftWord
  /-- `QR`, the output stage of the external register (R32, R150). -/
  qr : ShiftWord
  /-- The port `outcome`: the outcome of the last `STEP` or `STEPIRQ` (R37, R130). -/
  outcome : BitVec 2
  /-- The value the last `ISREADY` returned to the host (R91). The MODEL's own field. -/
  isreadyResult : Bool
  /-- The output trace, oldest first (R7). The MODEL's own record. -/
  trace : List LineEvent
  /-- The block's requests on `ie_clr` (false) and `ie_set` (true), oldest first (R37). The MODEL's own record. -/
  ieTrace : List Bool
  /-- What the normal context's operation in flight has still to do, next first (R33). -/
  normal : List Work
  /-- What the interrupt handler has still to do; `none` outside the interrupt context (R146). -/
  handler : Option (List Work)
  /-- The operations the host will issue from the normal context, in program order (R8). The MODEL's own field. -/
  program : List PortInput
  /-- The choices of the schedule, next first; when it is empty the current context advances (R36). The MODEL's own. -/
  schedule : List Choice
  /-- Which of the cell writes left comes next, counted modulo how many are left (R55, U11). The MODEL's own field. -/
  pick : Nat
  deriving DecidableEq, Repr

/-- The machine stops. The block raises no fault of its own (R140); these are the model's. -/
inductive Fault where
  /-- `STEP.COMPUTEROW` reads a cell that no `SETFRAME` has written (R35, U4). Safe: no run from reset meets it. -/
  | unwrittenCell
  /-- A cell write at an index of 60 or more: the address space is 0 to 59 (R50, R53). Raised by the copy of a frame.
  Safe: no run from reset meets it. -/
  | cellOutOfRange
  deriving DecidableEq, Repr

/-- No meaning for the operation here. -/
inductive Refusal where
  /-- The instruction has no meaning in this model yet. Safe. -/
  | notModelled (mnemonic : String)
  /-- A reserved `op` code (R80, D24): `RESERVED.OP5` to `RESERVED.OP7`. Safe. -/
  | reservedOp
  /-- The outcome code 11, never produced (R77): `OUTCOME.RESERVED`. Safe. -/
  | reservedOutcome
  /-- An encoding that is no instruction (R77, R79, R74). Raised by the fetch. Safe. -/
  | undecodable (why : DecodeError)
  /-- An operation issued from the context it does not belong to (R146, D20, U6; log entry 8). Safe. -/
  | wrongContext
  /-- `STEPIRQ` issued with interrupts enabled (R132, U6; log entry 8). Safe. -/
  | interruptsEnabled
  /-- A frame of other than 60 values (R53, U1; log entry 25): `SETFRAME`. Safe. -/
  | frameLength
  /-- `row` of 10 or more or `pass` above `MAX_INTENSITY` (R23, D26, U5): `STEP.COMPUTEROW` and `STEP.DISPLAYROW`. Safe. -/
  | cursorOutOfRange
  /-- `INIT` with an operation in flight (R160, D27; log entry 9). Safe. -/
  | initInFlight
  deriving DecidableEq, Repr

/-- What one step answers. -/
abbrev Result := Host.Outcome State Fault Refusal

/-- The state `INIT` leaves (R35, R160, R162), with the default parameters, nothing issued by the host and nothing
scheduled. `IE` = 1 is the launch premise of R30. `SR` and `QR` hold any value (R161, U12): free values. Zero for τ,
`outcome` and `isreadyResult` is the model's, DESIGN CHOICE (log entry 1). -/
def State.reset : State where
  cfg := Config.default
  fb := []
  state := 0
  row := 0
  pass := 0
  lastAction := Config.default.lastActionReset
  busy := false
  framePending := false
  data := Config.default.lineReset.data
  clk := Config.default.lineReset.clk
  oe := Config.default.lineReset.oe
  linesDriven := true
  ie := true
  tau := 0
  sr := Config.powerUpSr
  qr := Config.powerUpQr
  outcome := 0b00#2
  isreadyResult := false
  trace := []
  ieTrace := []
  normal := []
  handler := none
  program := []
  schedule := []
  pick := 0

end Sys2Proof.Machine
end

