-- ==== Sys2Proof/Machine/Operands.lean ====
section
/-! DEFINITION. How the operands of a shift word are formed from the cursor and the cells (R81, R104 to R106), and the
sequence of line writes that carries a word (R120, R121). Pure functions. -/

namespace Sys2Proof.Machine

open Sys2Proof

/-- `RowBits(r) = ~(1 << r) & 0x3FF` (R104). -/
def rowBits (r : Nat) : RowField := ~~~(1#10 <<< r)

/-- The bit of column c in `ColMask`: set iff the cell is strictly greater than the pass, as natural numbers (R105). -/
def colBit (cells : List Nat) (p c : Nat) : ColField :=
  match cells[c]? with
  | some v => if p < v then 1#6 <<< c else 0#6
  | none => 0#6

/-- `ColMask(r, p)` of the six cells of row r, column 0 first (R105). -/
def colMask (cells : List Nat) (p : Nat) : ColField :=
  (List.range numCols).foldl (fun m c => m ||| colBit cells p c) 0#6

/-- `Word(rowbits, colmask)` (R106). -/
def shiftWord (rowbits : RowField) (colmask : ColField) : ShiftWord :=
  rowbits.setWidth 16 ||| (colmask.setWidth 16 <<< 10)

/-- The writes of one data cell: clock low, data, clock high (R120 step 2). -/
def dataCellEvents (bit : Bool) : List LineEvent :=
  [⟨.clk, false⟩, ⟨.data, bit⟩, ⟨.clk, true⟩]

/-- The writes of `SEND(v)` after the first: sixteen data cells, most significant bit first, the latch cell, and the
unblanking of the outputs (R120 steps 2 to 4). -/
def sendTail (blank : Bool) (v : ShiftWord) : List LineEvent :=
  (List.range 16).flatMap (fun k => dataCellEvents (v.getLsbD (15 - k)))
    ++ [⟨.clk, false⟩, ⟨.clk, true⟩, ⟨.oe, !blank⟩]

/-- The 52 line write events of `SEND(v)`, e0 first (R120, R121). -/
def sendEvents (blank : Bool) (v : ShiftWord) : List LineEvent :=
  ⟨.oe, blank⟩ :: sendTail blank v

end Sys2Proof.Machine
end

