-- ==== Sys2Proof/Machine/Flags.lean ====
section
/-! DEFINITION. Time samples, the two elapsed-time tests, the derived output `ready`, and the writes of the flags and
of the interrupt enable (R12, R26 to R30, R130, R149). -/

namespace Sys2Proof.Machine

open Sys2Proof

/-- `Now()`: the port `now`, real time modulo 2^TIME_W (R10, R31, R148). -/
def now (s : State) : Nat := s.tau % 2 ^ s.cfg.timeW

/-- `Elapsed(t, s) = (t - s) mod 2^TIME_W` of samples of `w` bits (R12). PRESUMED (log entry 15). -/
def elapsed (w : Nat) (t since : Nat) : Nat := (((t : Int) - (since : Int)) % ((2 ^ w : Nat) : Int)).toNat

/-- The elapsed time both tests compare: from `last_action` to a fresh sample (R108, R131). -/
def sinceLastAction (s : State) : Nat := elapsed s.cfg.timeW (now s) s.lastAction

/-- The test of `STEP.DISPLAYROW`: the display interval has run out (R108, R149). -/
def displayExpired (s : State) : Bool :=
  decide (rowDisplayCycle ≤ sinceLastAction s)

/-- The test of the guard: the sample is closer than the minimum interval to `last_action` (R131, R149). -/
def tooSoon (s : State) : Bool :=
  decide (sinceLastAction s < minStepInterval)

/-- `ready`, derived from `state` with no delay (R28). -/
def ready (s : State) : Bool := s.state == 0

/-- The cursor is one the controller's rules are given for: row 0 to 9, pass 0 to `MAX_INTENSITY` (R104, R105, U5; log
entry 6). -/
def cursorInRange (s : State) : Bool :=
  decide (s.row < numRows ∧ s.pass ≤ s.cfg.maxIntensity.val)

/-- The block's request to the platform to write `IE` (R30, R37). -/
def writeIe (b : Bool) (s : State) : State :=
  { s with ie := b, ieTrace := s.ieTrace ++ [b] }

/-- The outcome code on the port `outcome` (R130). -/
def reportOutcome (code : BitVec 2) (s : State) : State :=
  { s with outcome := code }

/-- The code of Executed (R77). -/
def executedCode : BitVec 2 := 0b00#2

/-- The code of Aborted (R77). -/
def abortedCode : BitVec 2 := 0b01#2

/-- The code of Skipped (R77). -/
def skippedCode : BitVec 2 := 0b10#2

end Sys2Proof.Machine
end

