-- ==== Sys2Proof/Machine/Ops.lean ====
section
/-! DEFINITION. The shared operations: one cell of the frame buffer, one line write with the external register at its
far end, the queueing of events still to come, `StepCore`'s cursor advance, the taking of the interrupt and the return
from it, and the choice of what happens next. -/

namespace Sys2Proof.Machine

open Sys2Proof

/-! ### The frame buffer (R50 to R56) -/

/-- The canonical form of the frame buffer: indexes strictly rising and in the address space. A cell nothing has
written has no value (R35), so no entry can equal what an unlisted index reads as. -/
abbrev Memory.wf (m : List Cell) : Prop :=
  m.Pairwise (fun a b => a.1 < b.1) ∧ ∀ c ∈ m, c.1 < numCells

/-- `FB[i]`, if some `SETFRAME` has written it (R10, R35). -/
def readCell : List Cell → Nat → Option Nat
  | [], _ => none
  | (a, v) :: rest, i => if a = i then some v else readCell rest i

/-- `FB[i] <- v` (R10). -/
def writeCell : List Cell → Nat → Nat → List Cell
  | [], i, v => [(i, v)]
  | (a, w) :: rest, i, v =>
    if i < a then (i, v) :: (a, w) :: rest
    else if i = a then (i, v) :: rest
    else (a, w) :: writeCell rest i v

/-- The `n` cells from index `i` on, if all are written. -/
def readCells (m : List Cell) : Nat → Nat → Option (List Nat)
  | _, 0 => some []
  | i, n + 1 =>
    match readCell m i, readCells m (i + 1) n with
    | some v, some vs => some (v :: vs)
    | _, _ => none

/-- The six cells of row r, `I[r][0..5]` (R50). -/
def readRow (m : List Cell) (r : Nat) : Option (List Nat) :=
  readCells m (r * numCols) numCols

/-- The values of a frame written from index `i` on, in one event. -/
def writeFrame (m : List Cell) : Nat → List Nat → List Cell
  | _, [] => m
  | i, v :: vs => writeFrame (writeCell m i v) (i + 1) vs

/-! ### The lines and the external register (R29, R120, R150) -/

/-- A low-to-high transition of `CLK` (R150). -/
def clockRises (e : LineEvent) (s : State) : Bool :=
  (e.line == .clk) && e.level && !s.clk

/-- One line write event: the line register takes the level, the trace gets the event, and the external register
shifts on a rising clock, its output stage taking the shift stage's old value (R10, R150). The device is PRESUMED (log
entry 14). -/
def lineWrite (e : LineEvent) (s : State) : State :=
  { s with
    data := if e.line = .data then e.level else s.data
    clk := if e.line = .clk then e.level else s.clk
    oe := if e.line = .oe then e.level else s.oe
    sr := if clockRises e s then (s.sr <<< 1) ||| (BitVec.ofBool s.data).setWidth 16 else s.sr
    qr := if clockRises e s then s.sr else s.qr
    trace := s.trace ++ [e] }

/-- Line write events made one after another. -/
def lineWrites (events : List LineEvent) (s : State) : State := events.foldl (fun u e => lineWrite e u) s

/-! ### Events still to come (R33) -/

/-- Put events in front of what the current context has still to do. -/
def pushWork (work : List Work) (s : State) : State :=
  { s with
    normal := if s.handler.isSome then s.normal else work ++ s.normal
    handler := s.handler.map (work ++ ·) }

/-- `SEND(v)`: its first event is made, the other 51 follow one by one (R120, R121). -/
def beginSend (v : ShiftWord) (s : State) : State :=
  pushWork ((sendTail s.cfg.oeBlankLevel v).map .line) (lineWrite ⟨.oe, s.cfg.oeBlankLevel⟩ s)

/-- One cell write of a `SETFRAME`: `pick` chooses among the indexes left (R55, R90, U11; log entry 18). -/
def copyOne (left : List Nat) (frame : List Nat) (s : State) : Result :=
  let k := s.pick % left.length
  match left[k]? with
  | none => .next (pushWork [.request] s)
  | some i =>
    if i < numCells then
      match frame[i]? with
      | none => .refused .frameLength
      | some v =>
        let rest := left.eraseIdx k
        .next (pushWork [if rest.isEmpty then .request else .copy rest frame]
          { s with fb := writeCell s.fb i v })
    else .fault .cellOutOfRange

/-! ### The cursor (R109) -/

/-- `Advance()`: the pass is the inner loop, the row the outer; past the last pair the controller is Idle (R109). -/
def advanceCursor (s : State) : State :=
  if s.pass + 1 > s.cfg.maxIntensity.val then
    if s.row + 1 = numRows then { s with pass := 0, row := 0, state := 0 }
    else { s with pass := 0, row := s.row + 1, state := 2 }
  else { s with pass := s.pass + 1, state := 2 }

/-! ### The interrupt context (R142 to R145) -/

/-- The host command code of `STEPIRQ` as the handler presents it (R77). -/
def stepirqCode : Code := .hostcmd 0b100#3 0

/-- Taking the interrupt: the platform masks interrupts and the handler issues `STEPIRQ`. Nothing of the block is
saved (R144; log entry 28). -/
def takeInterrupt (s : State) : State :=
  { s with ie := false, handler := some [.run stepirqCode, .leave] }

/-- The handler's return: the platform enables interrupts and the normal context goes on where it was (R145). -/
def returnInterrupt (s : State) : State :=
  { s with ie := true, handler := none }

/-- The timer interrupt arrives. It is taken where `IE` = 1 and no handler runs; elsewhere the platform loses it
(R142). DESIGN CHOICE (log entry 7). -/
def interruptArrives (s : State) : State :=
  if s.ie && s.handler.isNone then takeInterrupt s else s

/-- `Tick`: real time advances by `more + 1` microseconds (R7, R31). -/
def passTime (more : Nat) (s : State) : State :=
  { s with tau := s.tau + (more + 1) }

/-! ### What happens next -/

/-- The ports while the host requests nothing: `op` = 000 (R77; log entry 19). -/
def idlePort : PortInput := ⟨0#1, 0b000#3, 0⟩

/-- The encoding a port input presents: the pin `rst` at 1, else the port `op` (R37, R77). DESIGN CHOICE (log entry 30):
with `rst` at 1 and an `op` other than 000 in one input, `INIT` runs and the op is dropped. The spec gives that input no
meaning: R143(e) and D27 say that `INIT` is not concurrent with another operation, and no rule gives a priority. -/
def PortInput.code (p : PortInput) : Code :=
  if p.rst = 1#1 then .rst 1#1 else .hostcmd p.op p.frameIn

/-- The next event of the context that runs, taken off its list. The interrupt context runs before the normal one
(R143); the normal context issues the host's next operation when nothing is in flight (R57). -/
def nextWork (s : State) : Work × State :=
  match s.handler with
  | some (w :: ws) => (w, { s with handler := some ws })
  | some [] => (.leave, s)
  | none =>
    match s.normal with
    | w :: ws => (w, { s with normal := ws })
    | [] =>
      match s.program with
      | p :: ps => (.run p.code, { s with program := ps })
      | [] => (.run idlePort.code, s)

/-- The encoding an event fetches: its own, or for the dispatch the register `state` (R76, R100). -/
def fetchCode (w : Work) (s : State) : Option Code :=
  match w with
  | .run code => some code
  | .dispatch => some (.state s.state)
  | .copy _ _ | .request | .line _ | .shown | .phase3 | .leave => none

/-- An event that fetches nothing. -/
def makeEvent (w : Work) (s : State) : Result :=
  match w with
  | .copy left frame => copyOne left frame s
  | .request => .next { s with framePending := true }
  | .line e => .next (lineWrite e s)
  | .shown => .next { s with lastAction := now s, state := 3 }
  | .phase3 => .next (reportOutcome executedCode (writeIe true { writeIe false s with busy := false }))
  | .leave => .next (returnInterrupt s)
  | .run _ | .dispatch => .next s

/-- The state whose next step fetches the encoding: a host command or the reset pin from the ports, `STEPIRQ` from the
interrupt handler, an arm from the register `state` through the dispatch, any other encoding as the next event of the
normal context. -/
def placeCode (code : Code) (s : State) : State :=
  match code with
  | .hostcmd op frameIn =>
    if op = 0b100#3 then
      { s with schedule := [], ie := false, handler := some [.run (.hostcmd op frameIn), .leave] }
    else { s with schedule := [], normal := [], handler := none, program := ⟨0#1, op, frameIn⟩ :: s.program }
  | .rst level =>
    { s with schedule := [], normal := [], handler := none, program := ⟨level, 0b000#3, 0⟩ :: s.program }
  | .state selector => { s with schedule := [], handler := none, state := selector, normal := .dispatch :: s.normal }
  | .srword w => { s with schedule := [], handler := none, normal := .run (.srword w) :: s.normal }
  | .serial cells => { s with schedule := [], handler := none, normal := .run (.serial cells) :: s.normal }
  | .outcome o => { s with schedule := [], handler := none, normal := .run (.outcome o) :: s.normal }

end Sys2Proof.Machine
end

