-- ==== Sys2Proof/Machine/Controller.lean ====
section
/-! DEFINITION. The five arms of `StepCore` (R100 to R109). -/

namespace Sys2Proof.Machine

open Sys2Proof

/-- `STEP.IDLE` (R101). -/
def execStepIdle (s : State) : Result :=
  if s.framePending then .next { s with framePending := false, state := 1 } else .next s

/-- `STEP.NEWDATA` (R102). -/
def execStepNewdata (s : State) : Result :=
  .next { s with row := 0, pass := 0, lastAction := now s, state := 2 }

/-- `STEP.COMPUTEROW` (R103). The six cells are read and the word is formed in this event; `SEND` of the word and then
the stamp follow. -/
def execStepComputerow (s : State) : Result :=
  if cursorInRange s then
    match readRow s.fb s.row with
    | none => .fault .unwrittenCell
    | some cells =>
      let w := shiftWord (rowBits s.row) (colMask cells s.pass)
      .next (pushWork [.run (.serial (serialCells w)), .shown] s)
  else .refused .cursorOutOfRange

/-- `STEP.DISPLAYROW` (R108). -/
def execStepDisplayrow (s : State) : Result :=
  if displayExpired s then
    if cursorInRange s then .next (advanceCursor s) else .refused .cursorOutOfRange
  else .next s

/-- `STEP.CORRUPT` (R107): only `state` is written, whatever code selected the arm. -/
def execStepCorrupt (_code : Nat) (s : State) : Result :=
  .next { s with state := 0 }

end Sys2Proof.Machine
end

