-- ==== Sys2Proof/Machine/FrameBuffer.lean ====
section
/-! DEFINITION. `NOP`, `SETFRAME`, `ISREADY` and the reserved host command codes (R77, R80, R90, R91). -/

namespace Sys2Proof.Machine

open Sys2Proof

/-- `NOP`: no state change, no event (R77). -/
def execNop (s : State) : Result := .next s

/-- `SETFRAME` (R90): 60 cell writes, one an event in any order, then the request; one event for all of them where
`SETFRAME_ATOMIC` is true (R55). A value above 9 is stored as it is, DEDUCED (log entry 5). -/
def execSetframe (frame : List Nat) (s : State) : Result :=
  if s.handler.isSome then .refused .wrongContext
  else if !frameSized frame then .refused .frameLength
  else if s.cfg.setframeAtomic then .next { s with fb := writeFrame s.fb 0 frame, framePending := true }
  else copyOne (List.range numCells) frame s

/-- `ISREADY` (R91): returns 1 iff `state` is Idle. -/
def execIsready (s : State) : Result :=
  if s.handler.isSome then .refused .wrongContext
  else .next { s with isreadyResult := ready s }

/-- The reserved code 101 (R80). -/
def execReservedOp5 (_s : State) : Result := .refused .reservedOp

/-- The reserved code 110 (R80). -/
def execReservedOp6 (_s : State) : Result := .refused .reservedOp

/-- The reserved code 111 (R80). -/
def execReservedOp7 (_s : State) : Result := .refused .reservedOp

end Sys2Proof.Machine
end

