-- ==== Sys2Proof/Machine/Guard.lean ====
section
/-! DEFINITION. The two step requests and their outcome codes (R130 to R132; log entries 8, 17, 21). -/

namespace Sys2Proof.Machine

open Sys2Proof

/-- `STEP` (R131). Phase 1 is this event; where it passes, `StepCore` and phase 3 follow as events of their own. -/
def execStep (s : State) : Result :=
  if s.handler.isSome then .refused .wrongContext
  else if s.busy || tooSoon s then .next (reportOutcome abortedCode (writeIe true (writeIe false s)))
  else .next (pushWork [.dispatch, .phase3] (writeIe true { writeIe false s with busy := true }))

/-- `STEPIRQ` (R132): in the interrupt context with interrupts masked. Where `busy` is 0, `StepCore` and the report of
the outcome follow. -/
def execStepirq (s : State) : Result :=
  if s.handler.isNone then .refused .wrongContext
  else if s.ie then .refused .interruptsEnabled
  else if s.busy then .next (reportOutcome skippedCode s)
  else .next (pushWork [.dispatch, .run (.outcome executedCode)] s)

/-- The code of Executed on the port `outcome` (R130). -/
def execOutcomeExecuted (s : State) : Result := .next (reportOutcome executedCode s)

/-- The code of Aborted on the port `outcome` (R130). -/
def execOutcomeAborted (s : State) : Result := .next (reportOutcome abortedCode s)

/-- The code of Skipped on the port `outcome` (R130). -/
def execOutcomeSkipped (s : State) : Result := .next (reportOutcome skippedCode s)

/-- The reserved outcome code, never produced (R77). -/
def execOutcomeReserved (_s : State) : Result := .refused .reservedOutcome

end Sys2Proof.Machine
end

