-- ==== Sys2Proof/Machine/Reset.lean ====
section
/-! DEFINITION. `INIT` (R160). -/

namespace Sys2Proof.Machine

open Sys2Proof

/-- `INIT` (R160): one event. The cells, `SR` and `QR` are not written, and the lines are driven without entries in the
output trace (R160 corner case (a); log entry 10). Given no meaning with an operation in flight (D27; log entry 9). -/
def execInit (s : State) : Result :=
  if s.handler.isSome then .refused .wrongContext
  else if !s.normal.isEmpty then .refused .initInFlight
  else .next { s with
    state := 0
    row := 0
    pass := 0
    lastAction := s.cfg.lastActionReset
    busy := false
    framePending := false
    data := s.cfg.lineReset.data
    clk := s.cfg.lineReset.clk
    oe := s.cfg.lineReset.oe
    linesDriven := true }

end Sys2Proof.Machine
end

