-- ==== Sys2Proof/Machine/Transport.lean ====
section
/-! DEFINITION. `SEND` and the shift words handed to it (R71, R106, R120; log entry 20). -/

namespace Sys2Proof.Machine

open Sys2Proof

/-- `SEND(v)` (R120): any word is transmitted unchanged. -/
def execSend (v : ShiftWord) (s : State) : Result := .next (beginSend v s)

/-- A word with row 0 active is handed to the transport unchanged (R71, R106). -/
def execWordR0 (col : ColField) (s : State) : Result := .next (beginSend (shiftWord (rowBits 0) col) s)

/-- A word with row 1 active is handed to the transport unchanged (R71, R106). -/
def execWordR1 (col : ColField) (s : State) : Result := .next (beginSend (shiftWord (rowBits 1) col) s)

/-- A word with row 2 active is handed to the transport unchanged (R71, R106). -/
def execWordR2 (col : ColField) (s : State) : Result := .next (beginSend (shiftWord (rowBits 2) col) s)

/-- A word with row 3 active is handed to the transport unchanged (R71, R106). -/
def execWordR3 (col : ColField) (s : State) : Result := .next (beginSend (shiftWord (rowBits 3) col) s)

/-- A word with row 4 active is handed to the transport unchanged (R71, R106). -/
def execWordR4 (col : ColField) (s : State) : Result := .next (beginSend (shiftWord (rowBits 4) col) s)

/-- A word with row 5 active is handed to the transport unchanged (R71, R106). -/
def execWordR5 (col : ColField) (s : State) : Result := .next (beginSend (shiftWord (rowBits 5) col) s)

/-- A word with row 6 active is handed to the transport unchanged (R71, R106). -/
def execWordR6 (col : ColField) (s : State) : Result := .next (beginSend (shiftWord (rowBits 6) col) s)

/-- A word with row 7 active is handed to the transport unchanged (R71, R106). -/
def execWordR7 (col : ColField) (s : State) : Result := .next (beginSend (shiftWord (rowBits 7) col) s)

/-- A word with row 8 active is handed to the transport unchanged (R71, R106). -/
def execWordR8 (col : ColField) (s : State) : Result := .next (beginSend (shiftWord (rowBits 8) col) s)

/-- A word with row 9 active is handed to the transport unchanged (R71, R106). -/
def execWordR9 (col : ColField) (s : State) : Result := .next (beginSend (shiftWord (rowBits 9) col) s)

end Sys2Proof.Machine
end

