-- ==== Sys2Proof/Machine/Dispatch.lean ====
section
/-! DEFINITION. The one dispatch from an instruction to its meaning. -/

namespace Sys2Proof.Machine

def exec (i : Instr) (s : State) : Host.Outcome State Fault Refusal :=
  match i with
  | .nop => Sys2Proof.Machine.execNop s
  | .setframe frame => Sys2Proof.Machine.execSetframe frame s
  | .isready => Sys2Proof.Machine.execIsready s
  | .step => Sys2Proof.Machine.execStep s
  | .stepirq => Sys2Proof.Machine.execStepirq s
  | .reservedOp5 => Sys2Proof.Machine.execReservedOp5 s
  | .reservedOp6 => Sys2Proof.Machine.execReservedOp6 s
  | .reservedOp7 => Sys2Proof.Machine.execReservedOp7 s
  | .init => Sys2Proof.Machine.execInit s
  | .stepIdle => Sys2Proof.Machine.execStepIdle s
  | .stepNewdata => Sys2Proof.Machine.execStepNewdata s
  | .stepComputerow => Sys2Proof.Machine.execStepComputerow s
  | .stepDisplayrow => Sys2Proof.Machine.execStepDisplayrow s
  | .stepCorrupt code => Sys2Proof.Machine.execStepCorrupt code s
  | .wordR0 col => Sys2Proof.Machine.execWordR0 col s
  | .wordR1 col => Sys2Proof.Machine.execWordR1 col s
  | .wordR2 col => Sys2Proof.Machine.execWordR2 col s
  | .wordR3 col => Sys2Proof.Machine.execWordR3 col s
  | .wordR4 col => Sys2Proof.Machine.execWordR4 col s
  | .wordR5 col => Sys2Proof.Machine.execWordR5 col s
  | .wordR6 col => Sys2Proof.Machine.execWordR6 col s
  | .wordR7 col => Sys2Proof.Machine.execWordR7 col s
  | .wordR8 col => Sys2Proof.Machine.execWordR8 col s
  | .wordR9 col => Sys2Proof.Machine.execWordR9 col s
  | .send v => Sys2Proof.Machine.execSend v s
  | .outcomeExecuted => Sys2Proof.Machine.execOutcomeExecuted s
  | .outcomeAborted => Sys2Proof.Machine.execOutcomeAborted s
  | .outcomeSkipped => Sys2Proof.Machine.execOutcomeSkipped s
  | .outcomeReserved => Sys2Proof.Machine.execOutcomeReserved s

end Sys2Proof.Machine
end

