-- ==== Sys2Proof/Machine/Step.lean ====
section
/-! DEFINITION. One event of the machine (R7): time passes, the interrupt arrives, or the current context makes its next
event, which runs the instruction it fetches. -/

namespace Sys2Proof.Machine

open Sys2Proof

/-- Run the instruction an encoding stands for. -/
def runCode (code : Code) (s : State) : Result :=
  match decode s.cfg code with
  | .ok i => exec i s
  | .error why => .refused (.undecodable why)

/-- The current context makes its next event. -/
def runNext (s : State) : Result :=
  match nextWork s with
  | (w, s') =>
    match fetchCode w s' with
    | some code => runCode code s'
    | none => makeEvent w s'

/-- One step: the schedule's next choice. With no choice left the current context advances, and a `SETFRAME` copy goes
on in rising order. -/
def step (s : State) : Host.Outcome State Fault Refusal :=
  match s.schedule with
  | .tick more :: rest => .next (passTime more { s with schedule := rest })
  | .irq :: rest => .next (interruptArrives { s with schedule := rest })
  | .advance k :: rest => runNext { s with schedule := rest, pick := k }
  | [] => runNext { s with pick := 0 }

/-- The state with a word of the opcode table where the next step fetches its instruction. It stands for what the host
drives on the ports from outside; log entry 4 says how a program comes to run from reset. -/
def State.withFetchWord (s : State) (nbits w : Nat) : State :=
  match codeOfTableWord nbits w with
  | some code => placeCode code s
  | none => s

end Sys2Proof.Machine
end

