-- ==== Sys2Proof/Machine/Matrix.lean ====
section
/-! DEFINITION. What the pins, the external register's outputs and the LEDs show (R29, R150, R151). Views of the state;
the block reads none of them. -/

namespace Sys2Proof.Machine

open Sys2Proof

/-- The level of a line register (R29). -/
def lineLevel (s : State) : Line → Bool
  | .data => s.data
  | .clk => s.clk
  | .oe => s.oe

/-- The pin of a line: driven to the line register's level once the line is an output (R29, R160). -/
def linePin (s : State) (l : Line) : Option Bool :=
  if s.linesDriven then some (lineLevel s l) else none

/-- The external register's outputs are enabled (R29, R150). -/
def outputsEnabled (s : State) : Bool := s.oe != s.cfg.oeBlankLevel

/-- `Q[k]`: bit k of the output stage, or disabled (R150). -/
def outputPin (s : State) (k : Nat) : Option Bool :=
  if outputsEnabled s then some (s.qr.getLsbD k) else none

/-- `Lit(r, c)`: the outputs are enabled, row select r is low and column drive c is high (R151). Arbitrary from reset to
the first `SEND`, as `QR` is (R161, U12). -/
def lit (s : State) (r c : Nat) : Bool :=
  outputsEnabled s && !s.qr.getLsbD r && s.qr.getLsbD (10 + c)

end Sys2Proof.Machine
end

