-- ==== Sys2Proof/Safety.lean ====
section
/-! DEFINITION. The words claims are stated in: what a step is about to do, which states are coherent (R34, R123, R133),
which hold no value above its width (R11), what the host keeps (R93, R146), and what a safe run is. -/

namespace Sys2Proof.Machine

open Sys2Proof

/-! ### What a step is about to do -/

/-- The event the current context makes in this step; `none` where time passes or the interrupt arrives instead. -/
def currentWork (s : State) : Option Work :=
  match s.schedule with
  | .tick _ :: _ => none
  | .irq :: _ => none
  | .advance _ :: _ => some (nextWork s).1
  | [] => some (nextWork s).1

/-- The encoding this step fetches, if its event fetches one. -/
def currentCode (s : State) : Option Code :=
  match currentWork s with
  | some w => fetchCode w s
  | none => none

/-- The instruction this step runs, if it runs one. -/
def currentInstr (s : State) : Option Instr :=
  match currentCode s with
  | some code =>
    match decode s.cfg code with
    | .ok i => some i
    | .error _ => none
  | none => none

/-- The state an instruction of this step runs in: the schedule's choice and the event are taken off their lists. -/
def fetched (s : State) : State :=
  match s.schedule with
  | .advance k :: rest => (nextWork { s with schedule := rest, pick := k }).2
  | _ => (nextWork { s with pick := 0 }).2

/-! ### Coherent states -/

/-- Every cell has been written (R34(d)). -/
abbrev frameWritten (m : List Cell) : Prop := ∀ i, i < numCells → (readCell m i).isSome

/-- The lines and the external register stand as the events leave them, made from some state (R121, R150). -/
def linesAfter (events : List LineEvent) (s : State) : Prop :=
  ∃ r : State, s.data = (lineWrites events r).data ∧ s.clk = (lineWrites events r).clk
    ∧ s.oe = (lineWrites events r).oe ∧ s.sr = (lineWrites events r).sr ∧ s.qr = (lineWrites events r).qr

/-- The lines rest as a `SEND` leaves them: the clock high, the data line at bit 0 of the word on the outputs, the
outputs enabled (R122, R125). -/
abbrev linesAtRest (s : State) : Prop :=
  s.clk = true ∧ s.data = s.qr.getLsbD 0 ∧ s.oe = !s.cfg.oeBlankLevel

/-- The lines stand as `INIT` leaves them (R161). -/
abbrev linesAtReset (s : State) : Prop :=
  s.data = s.cfg.lineReset.data ∧ s.clk = s.cfg.lineReset.clk ∧ s.oe = s.cfg.lineReset.oe

/-- What is left of one `StepCore` between two of its events (R100, R103, R121), with the line levels that go with it. -/
inductive CoreWork (s : State) : List Work → Prop where
  /-- The arm is still to be selected. -/
  | dispatch : CoreWork s [.dispatch]
  /-- The word is formed and its `SEND` has not begun. -/
  | handed (v : ShiftWord) : CoreWork s [.run (.serial (serialCells v)), .shown]
  /-- `SEND(v)` has made its first event and `k` more. -/
  | sending (v : ShiftWord) (k : Nat) (more : k < 51)
      (made : linesAfter ((sendEvents s.cfg.oeBlankLevel v).take (k + 1)) s) :
      CoreWork s (((sendTail s.cfg.oeBlankLevel v).drop k).map .line ++ [.shown])
  /-- The transmission is over and the stamp is still to come. -/
  | sent : CoreWork s [.shown]
  /-- The arm is done. -/
  | done : CoreWork s []

/-- What the normal context may be in the middle of, with the flag `busy` that goes with it (R34(e)). -/
inductive NormalShape (s : State) : Prop where
  | free (work : s.normal = []) (flag : s.busy = false)
  | copying (left : List Nat) (frame : List Nat) (work : s.normal = [.copy left frame])
      (some_left : left ≠ []) (in_range : ∀ i ∈ left, i < numCells) (size : frame.length = numCells)
      (others : ∀ i, i < numCells → i ∉ left → (readCell s.fb i).isSome) (flag : s.busy = false)
  | requesting (work : s.normal = [.request]) (copied : frameWritten s.fb) (flag : s.busy = false)
  | stepping (core : List Work) (work : s.normal = core ++ [.phase3]) (shape : CoreWork s core)
      (computing : .shown ∈ core → s.state = 2) (flag : s.busy = true)

/-- What the interrupt handler may be in the middle of. A `StepCore` is in progress there only where `busy` is 0, so
never beside one of the normal context (R133). -/
inductive HandlerShape (s : State) : Prop where
  | absent (work : s.handler = none)
  | entering (work : s.handler = some [.run stepirqCode, .leave])
  | stepping (core : List Work) (work : s.handler = some (core ++ [.run (.outcome executedCode), .leave]))
      (shape : CoreWork s core) (computing : .shown ∈ core → s.state = 2) (flag : s.busy = false)
  | leaving (work : s.handler = some [.leave])

/-- An event still to come is a line write. -/
def Work.isLine : Work → Bool
  | .line _ => true
  | .run _ | .dispatch | .copy _ _ | .request | .shown | .phase3 | .leave => false

/-- A `SEND` has begun and not ended, in either context. -/
def sendInFlight (s : State) : Bool :=
  s.normal.any Work.isLine || (s.handler.getD []).any Work.isLine

/-- The invariants of R34, with mutual exclusion (R133) and the blanking window (R123), of an instance whose lines are
reset unblanked. -/
structure Coherent (s : State) : Prop where
  /-- The frame buffer is in canonical form (R50). -/
  memory : Memory.wf s.fb
  /-- R34(a). -/
  code : s.state ≤ 3
  /-- R34(b). -/
  cursor : cursorInRange s = true
  /-- R34(c). -/
  idle : s.state = 0 → s.row = 0 ∧ s.pass = 0
  /-- R34(d), from the request on. -/
  frame : s.framePending = true ∨ s.state ≠ 0 → frameWritten s.fb
  /-- R34(e) for the normal context. -/
  normalShape : NormalShape s
  /-- Mutual exclusion for the interrupt context (R133). -/
  handlerShape : HandlerShape s
  /-- `IE` is 0 exactly while the handler runs (R144, R146). -/
  enable : s.ie = s.handler.isNone
  /-- R34(f): the outputs are disabled exactly during a `SEND` (R123). -/
  blanked : s.oe = s.cfg.oeBlankLevel ↔ sendInFlight s = true
  /-- R34(f): outside a `SEND` the lines rest as the last `SEND` left them, so `CLK` = 1, or as `INIT` did (R122). -/
  resting : sendInFlight s = false → linesAtRest s ∨ linesAtReset s
  /-- The parameters do not blank the lines at reset (R161). -/
  unblankedReset : s.cfg.lineReset.oe ≠ s.cfg.oeBlankLevel

/-- No stored value exceeds its width (R11), in an instance whose widths hold what is stored in them. -/
structure WithinWidths (s : State) : Prop where
  /-- The parameters (R6). -/
  legal : s.cfg.widthsLegal = true
  /-- R22. -/
  state : s.state < 2 ^ s.cfg.stateW
  /-- R23. -/
  row : s.row < 2 ^ s.cfg.rowW
  /-- R24. -/
  pass : s.pass < 2 ^ s.cfg.passW
  /-- R25. -/
  lastAction : s.lastAction < 2 ^ s.cfg.timeW
  /-- R21. -/
  cells : ∀ i v, readCell s.fb i = some v → v < 2 ^ s.cfg.intensityW
  /-- The cells of a frame still to be copied (R75). -/
  frames : ∀ left frame, .copy left frame ∈ s.normal ++ s.handler.getD [] → frameFits s.cfg frame = true

/-- The end of a run with nothing in flight (R173). -/
def quiescent (s : State) : Bool :=
  ready s && !s.framePending && !s.busy && s.normal.isEmpty && s.handler.isNone

/-! ### Safe runs -/

/-- The host issues from the normal context only operations that belong there, with no reserved code (R146, R80). -/
def hostKeepsContexts (s : State) : Bool :=
  s.program.all fun p => p.rst == 1#1 || decide (p.op.toNat ≤ 3)

/-- The host's frames keep the contract of R93. -/
def hostKeepsFrames (s : State) : Bool :=
  s.program.all fun p => p.rst == 1#1 || p.op != 0b001#3 || frameKeepsContract (unpackFrame s.cfg.intensityW p.frameIn)

/-- The ports while the host requests a `STEP` (R77). -/
def stepPort : PortInput := ⟨0#1, 0b011#3, 0⟩

/-- The ports while the host requests a `SETFRAME` (R77). -/
def setframePort (frameIn : Nat) : PortInput := ⟨0#1, 0b001#3, frameIn⟩

/-- The schedule of one event of the current context after `wait` microseconds. -/
def waitThen (wait : Nat) : List Choice :=
  if wait = 0 then [.advance 0] else [.tick (wait - 1), .advance 0]

/-- The schedule of as many events of the current context as there are waits, each after its own. -/
def paced (waits : List Nat) : List Choice := waits.flatMap waitThen

/-- The schedule of one word of a sweep by back-to-back `STEP`s: the 56 events of the one that sends, the display
interval, the three events of the one that advances (R110). -/
def wordVisit : List Choice :=
  List.replicate 56 (.advance 0) ++ .tick 499 :: List.replicate 3 (.advance 0)

/-- The schedule of a whole sweep with passes 0 to `m`: the Idle and the NewData steps, the minimum interval, and one
visit for each cursor pair (R110). -/
def sweepSchedule (m : Nat) : List Choice :=
  List.replicate 6 (.advance 0) ++ .tick 1 :: (List.replicate (numRows * (m + 1)) wordVisit).flatten

/-- Word number `k` of a sweep with passes 0 to `m` of the frame in `fb` (R110). -/
def sweepWord (fb : List Cell) (m k : Nat) : ShiftWord :=
  shiftWord (rowBits (k / (m + 1))) (colMask ((readRow fb (k / (m + 1))).getD []) (k % (m + 1)))

/-- A safe run of `k` steps: every step answers a next state, with no fault and no refusal. -/
def SafeRun (k : Nat) (s : State) : Prop := ∃ t, Host.Core.run core k s = .next t

end Sys2Proof.Machine
end

