-- ==== Sys2Proof/Certificates/Slice0/Obligations.lean ====
section
/-! DEFINITION. The statements for the provers. -/

open Sys2Proof Sys2Proof.Machine

/-! ### Encodings -/

/-- A few words written out from the tables of R71, R74, R75, R76, R77 decode to what the tables say. -/
def Obligations.WrittenWordsDecode : Prop :=
  decode Config.default (.hostcmd 0b000#3 0) = .ok .nop
  ∧ decode Config.default (.hostcmd 0b010#3 0) = .ok .isready
  ∧ decode Config.default (.hostcmd 0b011#3 0) = .ok .step
  ∧ decode Config.default (.hostcmd 0b100#3 0) = .ok .stepirq
  ∧ decode Config.default (.hostcmd 0b110#3 0) = .ok .reservedOp6
  ∧ decode Config.default (.rst 1#1) = .ok .init
  ∧ decode Config.default (.state 0b00000010) = .ok .stepComputerow
  ∧ decode Config.default (.state 0b00101010) = .ok (.stepCorrupt 0x2A)
  ∧ decode Config.default (.srword 0b1011101111111110#16) = .ok (.wordR0 0b101110#6)
  ∧ decode Config.default (.srword 0b1000001111110111#16) = .ok (.wordR3 0b100000#6)
  ∧ decode Config.default (.serial 0b10111011111111100#17) = .ok (.send 0xBBFE#16)
  ∧ decode Config.default (.outcome 0b10#2) = .ok .outcomeSkipped
  ∧ (unpackFrame 4 (0x9 * 2 ^ 236 + 0x21))[0]? = some 1
  ∧ (unpackFrame 4 (0x9 * 2 ^ 236 + 0x21))[1]? = some 2
  ∧ (unpackFrame 4 (0x9 * 2 ^ 236 + 0x21))[59]? = some 9

/-- Decoding the encoding of a well-formed instruction gives it back, with every operand at every value, whatever the
widths of the instance. -/
def Obligations.DecodeOfEncodeIsIdentity : Prop :=
  ∀ (cfg : Config) (i : Instr), i.wf cfg = true → decode cfg (encode cfg i) = .ok i

/-- An encoding that decodes is the encoding of what it decodes to, where a host command without an operand leaves
`frame_in` at zeros: no two encodings of one instruction, and no bit read that is not written. A host command other than
`SETFRAME` decodes to the same whatever is on `frame_in` (R77). -/
def Obligations.EncodeOfDecodeIsIdentity : Prop :=
  (∀ (cfg : Config) (c : Code) (i : Instr), c.fits cfg = true → decode cfg c = .ok i →
    (∀ op f, c = .hostcmd op f → op = 0b001#3 ∨ f = 0) → encode cfg i = c ∧ i.wf cfg = true)
  ∧ (∀ (cfg : Config) (op : BitVec 3) (f : Nat), op ≠ 0b001#3 →
    decode cfg (.hostcmd op f) = decode cfg (.hostcmd op 0))

/-- R84: a word reads back iff its row field has exactly one zero; then the active row is the index of that bit and the
column field is the mask; and such words and the pairs of a row below 10 and a mask of 6 bits match one to one. -/
def Obligations.ShiftWordReadsBackIffOneRow : Prop :=
  (∀ (cfg : Config) (w : ShiftWord), (∃ i, decode cfg (.srword w) = .ok i) ↔ ∃ r, r < 10 ∧ w.getLsbD r = false
      ∧ ∀ q, q < 10 → w.getLsbD q = false → q = r)
  ∧ (∀ (cfg : Config) (w : ShiftWord) (i : Instr) (r : Nat), decode cfg (.srword w) = .ok i → r < 10 → w.getLsbD r = false →
      i.shiftFields = some (r, colOf w) ∧ w = shiftWord (rowBits r) (colOf w))
  ∧ (∀ (r q : Nat) (c d : ColField), r < 10 → q < 10 →
      shiftWord (rowBits r) c = shiftWord (rowBits q) d → r = q ∧ c = d)

/-- R76: which arm each state code selects, the 256 of the default width and any more that a wider register holds. -/
def Obligations.StateCodeSelectsArm : Prop :=
  ∀ cfg : Config, decode cfg (.state 0x00) = .ok .stepIdle
  ∧ decode cfg (.state 0x01) = .ok .stepNewdata
  ∧ decode cfg (.state 0x02) = .ok .stepComputerow
  ∧ decode cfg (.state 0x03) = .ok .stepDisplayrow
  ∧ ∀ c : Nat, 0x04 ≤ c → decode cfg (.state c) = .ok (.stepCorrupt c)

/-! ### One step -/

/-- A step that fetches an encoding runs the instruction it decodes to; where the encoding is fetched, in each place the
machine fetches from. -/
def Obligations.StepRunsDecodedInstruction : Prop :=
  (∀ (s : State) (i : Instr), currentInstr s = some i → step s = exec i (fetched s))
  ∧ (∀ (s : State) (p : PortInput) (ps : List PortInput), s.schedule = [] → s.handler = none → s.normal = [] →
      s.program = p :: ps → currentCode s = some p.code ∧ fetched s = { s with program := ps, pick := 0 })
  ∧ (∀ s : State, s.schedule = [] → s.handler = none → s.normal = [] → s.program = [] →
      currentInstr s = some .nop ∧ fetched s = { s with pick := 0 })
  ∧ (∀ (s : State) (ws : List Work), s.schedule = [] → s.handler = none → s.normal = .dispatch :: ws →
      currentCode s = some (.state s.state) ∧ fetched s = { s with normal := ws, pick := 0 })
  ∧ (∀ (s : State) (ws : List Work), s.schedule = [] → s.handler = some (.dispatch :: ws) →
      currentCode s = some (.state s.state) ∧ fetched s = { s with handler := some ws, pick := 0 })
  ∧ (∀ (s : State) (c : Code) (ws : List Work), s.schedule = [] → s.handler = none → s.normal = .run c :: ws →
      currentCode s = some c ∧ fetched s = { s with normal := ws, pick := 0 })
  ∧ (∀ (s : State) (c : Code) (ws : List Work), s.schedule = [] → s.handler = some (.run c :: ws) →
      currentCode s = some c ∧ fetched s = { s with handler := some ws, pick := 0 })
  ∧ (∀ (s : State) (k : Nat) (rest : List Choice), s.schedule = .advance k :: rest →
      currentCode s = currentCode { s with schedule := [] }
      ∧ fetched s = { fetched { s with schedule := [] } with schedule := rest, pick := k })

/-- A `Tick` advances real time by a positive whole number of microseconds and changes nothing else, in every state
(R7, R31, R148). -/
def Obligations.TickAdvancesTimeOnly : Prop :=
  ∀ (s : State) (more : Nat) (rest : List Choice), s.schedule = .tick more :: rest →
    step s = .next { s with tau := s.tau + more + 1, schedule := rest }
    ∧ now { s with tau := s.tau + more + 1 } = (now s + (more + 1)) % 2 ^ s.cfg.timeW

/-- Taking the interrupt and returning from it (R144, R145): taken where `IE` = 1 and no handler runs, with interrupts
masked and the handler about to issue `STEPIRQ`; its return enables interrupts; nothing else is saved or changed. That an
arrival with `IE` = 0 is lost is the model's choice (log entry 7). -/
def Obligations.InterruptTakenWhereEnabled : Prop :=
  (∀ (s : State) (rest : List Choice), s.schedule = .irq :: rest → s.ie = true → s.handler = none →
    ∃ t, step s = .next t
      ∧ t = { s with ie := false, handler := t.handler, schedule := rest }
      ∧ currentInstr { t with schedule := [] } = some .stepirq)
  ∧ (∀ (s : State) (rest : List Choice), s.schedule = .irq :: rest → s.ie = false →
    step s = .next { s with schedule := rest })
  ∧ (∀ s : State, s.schedule = [] → s.handler = some [.leave] →
    step s = .next { s with ie := true, handler := none, pick := 0 })

/-! ### The host's operations -/

/-- `NOP` changes nothing (R77). -/
def Obligations.NopChangesNothing : Prop := ∀ s : State, exec .nop s = .next s

/-- The first event of `SETFRAME` with `SETFRAME_ATOMIC` false (R55, R90): one cell, chosen by the schedule, gets the
frame's value; every other cell reads as before; the other 59 writes stay to be made; nothing else changes. That the
schedule's pick modulo 60 names the cell is the model's choice (log entry 18). That frames outside the contract of R93
(values of 10 and more) are admitted, and stored as they are, is the model's (log entry 5, against D25). -/
def Obligations.SetframeWritesOneCellFirst : Prop :=
  ∀ (s : State) (f : List Nat), s.handler = none → (Instr.setframe f).wf s.cfg = true →
    s.cfg.setframeAtomic = false →
    ∃ (t : State) (left : List Nat), exec (.setframe f) s = .next t
      ∧ readCell t.fb (s.pick % 60) = f[s.pick % 60]?
      ∧ (∀ j, j ≠ s.pick % 60 → readCell t.fb j = readCell s.fb j)
      ∧ left.Nodup ∧ (∀ j, j ∈ left ↔ j < 60 ∧ j ≠ s.pick % 60)
      ∧ t = { s with fb := t.fb, normal := .copy left f :: s.normal }

/-- `SETFRAME` with `SETFRAME_ATOMIC` true is one event (R55, R90): every cell gets the frame's value, the request is
made, nothing else changes. That frames outside the contract of R93 (values of 10 and more) are admitted, and stored as
they are, is the model's (log entry 5, against D25). -/
def Obligations.SetframeAtomicCopiesAll : Prop :=
  ∀ (s : State) (f : List Nat), s.handler = none → (Instr.setframe f).wf s.cfg = true →
    s.cfg.setframeAtomic = true →
    ∃ t : State, exec (.setframe f) s = .next t
      ∧ (∀ j, j < 60 → readCell t.fb j = f[j]?)
      ∧ (∀ j, 60 ≤ j → readCell t.fb j = readCell s.fb j)
      ∧ t = { s with fb := t.fb, framePending := true }

/-- `SETFRAME` presented on the ports and left to run takes 61 events, in whatever order its cell writes are chosen
(R90): at the end cell i holds the i-th group of `INTENSITY_W` bits of `frame_in`, so bits 4i+3 to 4i at the default,
the request is made, and nothing else has changed. That values outside the contract of R93 (10 and more) are admitted,
and stored as they are, is the model's (log entry 5, against D25). -/
def Obligations.SetframeRunCopiesAll : Prop :=
  ∀ (s : State) (frameIn : Nat) (ps : List PortInput) (picks : List Nat) (sched : List Choice),
    s.handler = none → s.normal = [] → s.cfg.setframeAtomic = false →
    s.program = setframePort frameIn :: ps → picks.length = 61 → s.schedule = picks.map .advance ++ sched →
    ∃ t : State, Host.Core.run core 61 s = .next t
      ∧ (∀ j, j < 60 → readCell t.fb j = some (frameIn / 2 ^ (s.cfg.intensityW * j) % 2 ^ s.cfg.intensityW))
      ∧ (∀ j, 60 ≤ j → readCell t.fb j = readCell s.fb j)
      ∧ t = { s with fb := t.fb, framePending := true, program := ps, schedule := sched, pick := t.pick }

/-- A frame of any other length is refused and changes nothing (R53, U1). -/
def Obligations.SetframeRefusesOtherLengths : Prop :=
  ∀ (s : State) (f : List Nat), s.handler = none → f.length ≠ 60 →
    exec (.setframe f) s = .refused .frameLength

/-- `ISREADY` returns 1 iff `state` is Idle, whatever else holds, and writes nothing else (R91). -/
def Obligations.IsreadyReturnsIdle : Prop :=
  ∀ s : State, s.handler = none →
    ∃ t : State, exec .isready s = .next t ∧ (t.isreadyResult = true ↔ s.state = 0)
      ∧ t = { s with isreadyResult := t.isreadyResult } ∧ (ready s = true ↔ s.state = 0)

/-- `INIT` (R160): Idle, cursor at (0, 0), the flags clear, the stamp and the lines at their reset values; the cells, the
external register, `IE`, time and the trace are not written. -/
def Obligations.InitResetsBlock : Prop :=
  ∀ s : State, s.handler = none → s.normal = [] →
    exec .init s = .next { s with
      state := 0, row := 0, pass := 0, lastAction := s.cfg.lastActionReset, busy := false,
      framePending := false, data := s.cfg.lineReset.data, clk := s.cfg.lineReset.clk, oe := s.cfg.lineReset.oe,
      linesDriven := true }

/-- The state after reset (R35, R162): the values the spec gives. -/
def Obligations.ResetStateAsTabulated : Prop :=
  State.reset.state = 0 ∧ ready State.reset = true ∧ State.reset.row = 0 ∧ State.reset.pass = 0
  ∧ State.reset.lastAction = 0 ∧ State.reset.busy = false ∧ State.reset.framePending = false
  ∧ (∀ i, readCell State.reset.fb i = none)
  ∧ linePin State.reset .data = some false ∧ linePin State.reset .clk = some false
  ∧ linePin State.reset .oe = some false ∧ State.reset.ie = true
  ∧ outputsEnabled State.reset = true ∧ State.reset.trace = []
  ∧ quiescent State.reset = true

/-- An operation issued from the context it does not belong to is refused: the model's reading of D20, D27 and U6 (log
entries 8 and 9). -/
def Obligations.WrongContextRefused : Prop :=
  (∀ (s : State) (ws : List Work) (f : List Nat), s.handler = some ws →
    exec (.setframe f) s = .refused .wrongContext ∧ exec .isready s = .refused .wrongContext
    ∧ exec .step s = .refused .wrongContext ∧ exec .init s = .refused .wrongContext)
  ∧ (∀ s : State, s.handler = none → exec .stepirq s = .refused .wrongContext)
  ∧ (∀ (s : State) (ws : List Work), s.handler = some ws → s.ie = true →
    exec .stepirq s = .refused .interruptsEnabled)
  ∧ (∀ s : State, s.handler = none → s.normal ≠ [] → exec .init s = .refused .initInFlight)

/-- The reserved host command codes are refused in every state (R80). Of the outcome code 3 R77 says only that it is never
produced; that it is an instruction, and refused, is the model's reading (log entry 26, DEDUCED). -/
def Obligations.ReservedCodesRefused : Prop :=
  ∀ s : State,
    exec .reservedOp5 s = .refused .reservedOp ∧ exec .reservedOp6 s = .refused .reservedOp
    ∧ exec .reservedOp7 s = .refused .reservedOp ∧ exec .outcomeReserved s = .refused .reservedOutcome

/-! ### The guard -/

/-- R12: elapsed time is the difference modulo 2^TIME_W, so an interval of d microseconds is seen as d mod 2^TIME_W; the
default width is 32. Width and wrap are the spec's own decision, from general knowledge, and PRESUMED here (log entry
15). -/
def Obligations.ElapsedIsModular : Prop :=
  (∀ w t u : Nat, (elapsed w t u : Int) = ((t : Int) - (u : Int)) % ((2 ^ w : Nat) : Int))
  ∧ (∀ w t u : Nat, t < 2 ^ w → u < 2 ^ w → elapsed w t u = if u ≤ t then t - u else t + 2 ^ w - u)
  ∧ (∀ (s : State) (d : Nat),
      elapsed s.cfg.timeW (now { s with tau := s.tau + d }) (now s) = d % 2 ^ s.cfg.timeW)
  ∧ (∀ s : State, sinceLastAction s = elapsed s.cfg.timeW (now s) s.lastAction)
  ∧ Config.default.timeW = 32

/-- `STEP` whose entry check passes (R131 phase 1): `busy` is set, `IE` is written 0 then 1 whatever it was, the dispatch
and phase 3 follow; nothing else changes. -/
def Obligations.StepPassesEntryCheck : Prop :=
  ∀ s : State, s.handler = none → s.busy = false → 2 ≤ sinceLastAction s →
    exec .step s = .next { s with
      busy := true, ie := true, ieTrace := s.ieTrace ++ [false, true], normal := .dispatch :: .phase3 :: s.normal }

/-- `STEP` whose entry check fails (R131): Aborted, `IE` is 1 afterwards, nothing else changes; and it fails exactly
when `busy` is 1 or the sample is less than 2 microseconds after `last_action`. -/
def Obligations.StepAbortsWhenBusyOrTooSoon : Prop :=
  ∀ s : State, s.handler = none →
    (s.busy = true ∨ sinceLastAction s < 2 ↔
      exec .step s = .next { s with ie := true, ieTrace := s.ieTrace ++ [false, true], outcome := 0b01#2 })

/-- R134: within 2 microseconds of a stamp, every `STEP` is Aborted. -/
def Obligations.StampHoldsOffStep : Prop :=
  ∀ (s : State) (d : Nat), s.handler = none → s.lastAction = now s → d < 2 →
    ∃ t, exec .step { s with tau := s.tau + d } = .next t ∧ t.outcome = 0b01#2
      ∧ t.state = s.state ∧ t.row = s.row ∧ t.pass = s.pass ∧ t.trace = s.trace ∧ t.busy = s.busy
      ∧ t.normal = s.normal ∧ t.lastAction = s.lastAction

/-- `STEPIRQ` with interrupts masked (R132): Skipped while `busy` is 1, with nothing else changed; else the dispatch
follows, with no interval check, and neither `busy` nor `IE` is written. -/
def Obligations.StepirqSkipsOrDispatches : Prop :=
  (∀ (s : State) (ws : List Work), s.handler = some ws → s.ie = false → s.busy = true →
    exec .stepirq s = .next { s with outcome := 0b10#2 })
  ∧ (∀ (s : State) (ws : List Work), s.handler = some ws → s.ie = false → s.busy = false →
    exec .stepirq s = .next { s with handler := some (.dispatch :: .run (.outcome 0b00#2) :: ws) })

/-- The three outcome codes that are produced, each put on the port `outcome` (R130). The codes as instructions are the
model's reading of the opcode table (log entry 21). -/
def Obligations.OutcomeCodesReported : Prop :=
  ∀ s : State,
    exec .outcomeExecuted s = .next { s with outcome := 0b00#2 }
    ∧ exec .outcomeAborted s = .next { s with outcome := 0b01#2 }
    ∧ exec .outcomeSkipped s = .next { s with outcome := 0b10#2 }

/-- A `STEPIRQ` that arrives anywhere inside a normal-context `STEP` is Skipped and leaves no trace: after its three
events the machine is where it was, but for the outcome port and the schedule (R132, R133, source property 6). The count
of three is the model's (log entry 17), and so is a handler that does one `STEPIRQ` and returns (log entry 28). -/
def Obligations.SkippedStepirqLeavesNoTrace : Prop :=
  ∀ (s : State) (sched : List Choice), s.ie = true → s.handler = none → s.busy = true →
    s.schedule = .irq :: .advance s.pick :: .advance s.pick :: sched →
    Host.Core.run core 3 s = .next { s with outcome := 0b10#2, schedule := sched }

/-! ### The arms -/

/-- `STEP.IDLE` (R101). -/
def Obligations.IdleArmTakesPendingFrame : Prop :=
  (∀ s : State, s.framePending = true → exec .stepIdle s = .next { s with framePending := false, state := 1 })
  ∧ (∀ s : State, s.framePending = false → exec .stepIdle s = .next s)

/-- `STEP.NEWDATA` (R102). -/
def Obligations.NewdataArmResetsCursor : Prop :=
  ∀ s : State, exec .stepNewdata s = .next { s with
    row := 0, pass := 0, lastAction := s.tau % 2 ^ s.cfg.timeW, state := 2 }

/-- `STEP.CORRUPT` writes `state` <- 0 and nothing else, whatever code selected it (R107). -/
def Obligations.CorruptArmHealsStateOnly : Prop :=
  ∀ (s : State) (code : Nat), exec (.stepCorrupt code) s = .next { s with state := 0 }

/-- `STEP.DISPLAYROW` (R108, R109): before 500 microseconds have elapsed it changes nothing, wherever the cursor is. From
then on, and with the cursor in the range the rules are given for, the cursor moves to the next pair, pass first, and the
next state is ComputeRow; past the last pair the cursor is (0, 0) and the next state is Idle; nothing else changes. -/
def Obligations.DisplayArmHoldsThenAdvances : Prop :=
  (∀ s : State, sinceLastAction s < 500 → exec .stepDisplayrow s = .next s)
  ∧ ∀ s : State, 500 ≤ sinceLastAction s → s.row ≤ 9 →
    s.pass ≤ s.cfg.maxIntensity.val →
    ∃ t : State, exec .stepDisplayrow s = .next t
      ∧ t = { s with state := t.state, row := t.row, pass := t.pass }
      ∧ (s.pass + 1 ≤ s.cfg.maxIntensity.val →
          t.pass = s.pass + 1 ∧ t.row = s.row ∧ t.state = 2)
      ∧ (s.pass = s.cfg.maxIntensity.val → s.row ≤ 8 →
          t.pass = 0 ∧ t.row = s.row + 1 ∧ t.state = 2)
      ∧ (s.pass = s.cfg.maxIntensity.val → s.row = 9 → t.pass = 0 ∧ t.row = 0 ∧ t.state = 0)

/-- The three functions of a word (R104, R105, R106). `RowBits(r)` has a zero exactly at bit r, so no zero for r of 10 or
more; bit c of `ColMask` is set iff the cell of column c is strictly greater than the pass; `Word` is the column mask
above the row bits. That a cell of intensity v is lit on min(v, M + 1) of the passes 0 to M is what R105 derives from
its formula. -/
def Obligations.WordFormedFromRowAndCells : Prop :=
  (∀ r k, k < 10 → ((rowBits r).getLsbD k = false ↔ k = r))
  ∧ (∀ (cells : List Nat) (p c : Nat) (v : Nat), c < 6 → cells[c]? = some v →
      ((colMask cells p).getLsbD c = true ↔ p < v))
  ∧ (∀ (cells : List Nat) (m c : Nat) (v : Nat), c < 6 → cells[c]? = some v →
      (List.range (m + 1)).countP (fun p => (colMask cells p).getLsbD c) = min v (m + 1))
  ∧ (∀ (rowbits : RowField) (colmask : ColField), shiftWord rowbits colmask = colmask ++ rowbits)

/-- `STEP.COMPUTEROW` (R103 to R106): the word it hands to the transport has row select k low iff k is the row, and
column drive c high iff the cell of row `row` and column c is strictly greater than the pass; the `SEND` and then the
stamp follow, in the context the arm runs in; nothing else changes. -/
def Obligations.ComputeArmFormsWord : Prop :=
  ∀ s : State, s.row ≤ 9 → s.pass ≤ s.cfg.maxIntensity.val →
    (∀ c, c < 6 → (readCell s.fb (s.row * 6 + c)).isSome) →
    ∃ w : ShiftWord,
      (∀ k, k < 10 → (w.getLsbD k = false ↔ k = s.row))
      ∧ (∀ c v, c < 6 → readCell s.fb (s.row * 6 + c) = some v →
          (w.getLsbD (10 + c) = true ↔ s.pass < v))
      ∧ decode s.cfg (.serial (serialCells w)) = .ok (.send w)
      ∧ (s.handler = none → exec .stepComputerow s =
          .next { s with normal := .run (.serial (serialCells w)) :: .shown :: s.normal })
      ∧ (∀ ws, s.handler = some ws → exec .stepComputerow s =
          .next { s with handler := some (.run (.serial (serialCells w)) :: .shown :: ws) })

/-- `STEP.COMPUTEROW` stops where it reads a cell no `SETFRAME` has written (U4), and the cursor arms stop where the
cursor is outside the range the rules are given for (U5). The model's reading of U4 and U5 (log entries 2
and 6). -/
def Obligations.CursorArmsStopOutsideTheirRules : Prop :=
  (∀ (s : State) (c : Nat), s.row ≤ 9 → s.pass ≤ s.cfg.maxIntensity.val → c < 6 →
    readCell s.fb (s.row * 6 + c) = none → exec .stepComputerow s = .fault .unwrittenCell)
  ∧ (∀ s : State, 10 ≤ s.row ∨ s.cfg.maxIntensity.val < s.pass →
    exec .stepComputerow s = .refused .cursorOutOfRange)
  ∧ (∀ s : State, 10 ≤ s.row ∨ s.cfg.maxIntensity.val < s.pass →
    500 ≤ sinceLastAction s → exec .stepDisplayrow s = .refused .cursorOutOfRange)

/-! ### The transport -/

/-- R121: the 52 line write events of `SEND(v)`, by number. -/
def Obligations.SendTraceIsTheTable : Prop :=
  ∀ (blank : Bool) (v : ShiftWord),
    (sendEvents blank v).length = 52
    ∧ (sendEvents blank v)[0]? = some ⟨.oe, blank⟩
    ∧ (∀ k, k < 16 →
        (sendEvents blank v)[1 + 3 * k]? = some ⟨.clk, false⟩
        ∧ (sendEvents blank v)[2 + 3 * k]? = some ⟨.data, v.getLsbD (15 - k)⟩
        ∧ (sendEvents blank v)[3 + 3 * k]? = some ⟨.clk, true⟩)
    ∧ (sendEvents blank v)[49]? = some ⟨.clk, false⟩
    ∧ (sendEvents blank v)[50]? = some ⟨.clk, true⟩
    ∧ (sendEvents blank v)[51]? = some ⟨.oe, !blank⟩

/-- `SEND(v)` begins in every state and for every word (R120): its first event blanks the outputs, the other 51 follow
in order, in the context it began in; nothing else changes. -/
def Obligations.SendBeginsByBlanking : Prop :=
  (∀ (s : State) (v : ShiftWord), s.handler = none →
    exec (.send v) s = .next { s with
      oe := s.cfg.oeBlankLevel
      trace := s.trace ++ (sendEvents s.cfg.oeBlankLevel v).take 1
      normal := ((sendEvents s.cfg.oeBlankLevel v).drop 1).map .line ++ s.normal })
  ∧ (∀ (s : State) (v : ShiftWord) (ws : List Work), s.handler = some ws →
    exec (.send v) s = .next { s with
      oe := s.cfg.oeBlankLevel
      trace := s.trace ++ (sendEvents s.cfg.oeBlankLevel v).take 1
      handler := some (((sendEvents s.cfg.oeBlankLevel v).drop 1).map .line ++ ws) })

/-- A shift word of the table, whichever row it selects, is handed to the transport unchanged (R71, R106). A word as an
instruction is its being sent: the model's reading (log entry 20). -/
def Obligations.ShiftWordSentUnchanged : Prop :=
  ∀ (s : State) (i : Instr) (r : Nat) (col : ColField), i.shiftFields = some (r, col) →
    ∃ w : ShiftWord, encode s.cfg i = .srword w ∧ exec i s = exec (.send w) s ∧ ∃ t, exec i s = .next t
      ∧ t.trace = s.trace ++ [⟨.oe, s.cfg.oeBlankLevel⟩]

/-- The events of one `SEND(v)` leave the word on the external register's outputs whatever it held before, the lines at
rest, and nothing else changed (R122, R125). -/
def Obligations.SendLeavesWordOnOutputs : Prop :=
  ∀ (s : State) (v : ShiftWord),
    lineWrites (sendEvents s.cfg.oeBlankLevel v) s = { s with
      data := v.getLsbD 0
      clk := true
      oe := !s.cfg.oeBlankLevel
      sr := (v <<< 1) ||| (BitVec.ofBool (v.getLsbD 0)).setWidth 16
      qr := v
      trace := s.trace ++ sendEvents s.cfg.oeBlankLevel v }

/-- In the middle of a `SEND` one step either makes the next line event of that `SEND`, or makes no line event and leaves
what is to come, the lines and the external register as they are (R121, R123): for the `SEND` of a normal-context step
from a coherent state, and for the `SEND` inside the interrupt handler (R132 (c), R133) from any state, where the normal
context stands still and only time passes between. -/
def Obligations.SendIsUnbroken : Prop :=
  (∀ (s t : State) (e : LineEvent) (ws : List Work), Coherent s → s.normal = .line e :: ws → step s = .next t →
    (t.normal = ws ∧ t.trace = s.trace ++ [e])
    ∨ (t.normal = s.normal ∧ t.trace = s.trace ∧ t.data = s.data ∧ t.clk = s.clk ∧ t.oe = s.oe
        ∧ t.sr = s.sr ∧ t.qr = s.qr))
  ∧ (∀ (s t : State) (e : LineEvent) (ws : List Work), s.handler = some (.line e :: ws) → step s = .next t →
    t = { lineWrite e s with handler := some ws, schedule := t.schedule, pick := t.pick }
    ∨ t = { s with tau := t.tau, schedule := t.schedule })

/-- During a `SEND` no LED is lit (R123). -/
def Obligations.NothingLitDuringSend : Prop :=
  ∀ (s : State) (r c : Nat), Coherent s → sendInFlight s = true → lit s r c = false

/-- With a word of the controller on the enabled outputs, the LEDs lit are those of the active row whose column bit is
set, so at most one row is lit (R151). -/
def Obligations.LitLedsOfWord : Prop :=
  ∀ (s : State) (r k c : Nat) (col : ColField), r < 10 → k < 10 → c < 6 → outputsEnabled s = true →
    s.qr = shiftWord (rowBits r) col → (lit s k c = true ↔ k = r ∧ col.getLsbD c = true)

/-! ### Whole requests -/

/-- A whole `STEP` in ComputeRow, uninterrupted, with any time passing before each of its 56 events (R131, R103): the
entry check is made after the wait `entry`; the word formed from the cursor and the row's cells goes out as the 52 line
events, of which the last 51 and the two events before them are made after the waits `during`, and ends on the outputs;
the stamp is the time after one wait more, when the transmission is over; the next state is DisplayRow, `busy` is clear
again, the outcome is Executed; nothing else changes. The count of 56 events is the model's (log entry 17). -/
def Obligations.StepInComputeRowSendsWord : Prop :=
  ∀ (s : State) (cells : List Nat) (ps : List PortInput) (entry : Nat) (during : List Nat) (stamp finish : Nat)
    (sched : List Choice),
    let waits := entry :: during ++ [stamp, finish]
    s.handler = none → s.normal = [] → s.busy = false → during.length = 53 →
    2 ≤ sinceLastAction { s with tau := s.tau + entry } →
    s.state = 2 → cursorInRange s = true → readRow s.fb s.row = some cells →
    s.program = stepPort :: ps → s.schedule = paced waits ++ sched →
    let w := shiftWord (rowBits s.row) (colMask cells s.pass)
    Host.Core.run core (paced waits).length s = .next { s with
      state := 3
      lastAction := (s.tau + entry + during.sum + stamp) % 2 ^ s.cfg.timeW
      tau := s.tau + entry + during.sum + stamp + finish
      data := w.getLsbD 0
      clk := true
      oe := !s.cfg.oeBlankLevel
      sr := (w <<< 1) ||| (BitVec.ofBool (w.getLsbD 0)).setWidth 16
      qr := w
      trace := s.trace ++ sendEvents s.cfg.oeBlankLevel w
      ie := true
      ieTrace := s.ieTrace ++ [false, true, false, true]
      outcome := 0b00#2
      program := ps
      schedule := sched
      pick := 0 }

/-- A whole timer interrupt that finds the controller in ComputeRow, with any time passing before each of the handler's
events (R132, R144, R145): arrival, `STEPIRQ`, the arm, the 52 line events, the stamp at the time the transmission is
over, the outcome, the return. `busy` is never written, and whatever the normal context was in the middle of stays where
it was. The count of 58 events is the model's (log entry 17), and so is a handler that does one `STEPIRQ` and returns
(log entry 28). -/
def Obligations.StepirqInComputeRowSendsWord : Prop :=
  ∀ (s : State) (cells : List Nat) (during : List Nat) (stamp report leave : Nat) (sched : List Choice),
    let waits := during ++ [stamp, report, leave]
    s.handler = none → s.ie = true → s.busy = false → during.length = 54 →
    s.state = 2 → cursorInRange s = true → readRow s.fb s.row = some cells →
    s.schedule = .irq :: paced waits ++ sched →
    let w := shiftWord (rowBits s.row) (colMask cells s.pass)
    Host.Core.run core ((paced waits).length + 1) s = .next { s with
      state := 3
      lastAction := (s.tau + during.sum + stamp) % 2 ^ s.cfg.timeW
      tau := s.tau + during.sum + stamp + report + leave
      data := w.getLsbD 0
      clk := true
      oe := !s.cfg.oeBlankLevel
      sr := (w <<< 1) ||| (BitVec.ofBool (w.getLsbD 0)).setWidth 16
      qr := w
      trace := s.trace ++ sendEvents s.cfg.oeBlankLevel w
      outcome := 0b00#2
      schedule := sched
      pick := 0 }

/-- A whole sweep by back-to-back `STEP`s (R110), for every `MAX_INTENSITY` and every frame: from Idle with a frame
pending, 2 + 2·10·(M + 1) requests send exactly the 10·(M + 1) words of the frame in the order of the
cursor and return to Idle with the frame buffer unchanged and the last word on the outputs. The schedule is one of many
and counts the model's steps (log entry 17); `QR` is the presumed device's (log entry 14). -/
def Obligations.SweepSendsEveryWordOnce : Prop :=
  ∀ (s : State) (ps : List PortInput) (sched : List Choice),
    let m := s.cfg.maxIntensity.val
    s.handler = none → s.normal = [] → s.busy = false → s.state = 0 → s.framePending = true →
    frameWritten s.fb → 2 ≤ sinceLastAction s →
    rowDisplayCycle < 2 ^ s.cfg.timeW →
    s.program = List.replicate (2 + 2 * (10 * (m + 1))) stepPort ++ ps →
    s.schedule = sweepSchedule m ++ sched →
    ∃ t : State, Host.Core.run core (sweepSchedule m).length s = .next t
      ∧ t.trace = s.trace
          ++ (List.range (10 * (m + 1))).flatMap (fun k => sendEvents s.cfg.oeBlankLevel (sweepWord s.fb m k))
      ∧ t.qr = sweepWord s.fb m (10 * (m + 1) - 1)
      ∧ t.state = 0 ∧ t.row = 0 ∧ t.pass = 0 ∧ t.framePending = false ∧ t.busy = false
      ∧ t.fb = s.fb ∧ t.cfg = s.cfg ∧ t.normal = [] ∧ t.handler = none ∧ t.program = ps ∧ t.schedule = sched
      ∧ t.tau = s.tau + 2 + 500 * (10 * (m + 1))

/-! ### Rules of the whole machine -/

/-- The state after reset is coherent (R34, R35). -/
def Obligations.ResetIsCoherent : Prop := Coherent State.reset

/-- R34, R122, R123 and R133: every step from a coherent state, whatever the host issues and however the schedule interleaves
time and the interrupt, gives a coherent state. Where the host presents `rst` = 1 with an op beside it, `INIT` is what runs,
the model's choice (log entry 30). -/
def Obligations.StepKeepsCoherent : Prop :=
  ∀ s t : State, Coherent s → step s = .next t → Coherent t

/-- No operation traps, faults or stops the sequencer (R140): from a coherent state, with a host that issues from each
context what belongs there, every step answers a next state and the host's premise holds again. That an input with
`rst` = 1 and an op beside it is an `INIT`, which the premise lets through, is the model's choice (log entry 30). The premise
also lets through frames outside the contract of R93 (values of 10 and more); that such a frame is not refused is the model's
(log entry 5, against D25 and R80 (b)). -/
def Obligations.CoherentNeverStops : Prop :=
  ∀ s : State, Coherent s → hostKeepsContexts s = true →
    ∃ t, step s = .next t ∧ hostKeepsContexts t = true

/-- Every step from any state keeps the frame buffer in canonical form: indexes below 60 (R50), and strictly rising, which
is the model's choice of a form (log entry 2, DESIGN CHOICE). -/
def Obligations.StepKeepsMemoryCanonical : Prop :=
  ∀ s t : State, Memory.wf s.fb → step s = .next t → Memory.wf t.fb

/-- Only `SETFRAME` writes the frame buffer (R20, R21). -/
def Obligations.OnlySetframeWritesCells : Prop :=
  ∀ s t : State, step s = .next t → t.fb ≠ s.fb →
    (∃ f, currentInstr s = some (.setframe f)) ∨ (∃ left f, currentWork s = some (.copy left f))

/-- Only a `SEND` and `INIT` drive the lines, one event a step, and the external register moves only with a line event
(R126, R150). That a step running `INIT` drives the lines with no entry in the trace is the model's choice: R160 (a) also
allows three line events there, with which this would be false (log entry 10, DESIGN CHOICE). -/
def Obligations.OnlySendAndInitDriveLines : Prop :=
  ∀ s t : State, step s = .next t →
    (t.trace = s.trace ∧ t.sr = s.sr ∧ t.qr = s.qr
      ∧ (t.data = s.data ∧ t.clk = s.clk ∧ t.oe = s.oe ∨ currentInstr s = some .init))
    ∨ (∃ e, t.trace = s.trace ++ [e]
        ∧ (currentWork s = some (.line e) ∨ (∃ v, currentInstr s = some (.send v))
          ∨ (∃ i r col, currentInstr s = some i ∧ i.shiftFields = some (r, col))))

/-- The owners of the controller's registers and flags (R20, R25 to R27): which operations can change each. -/
def Obligations.RegistersWrittenByOwnersOnly : Prop :=
  ∀ s t : State, step s = .next t →
    (t.state ≠ s.state →
      currentInstr s = some .stepIdle ∨ currentInstr s = some .stepNewdata ∨ currentInstr s = some .stepDisplayrow
      ∨ (∃ c, currentInstr s = some (.stepCorrupt c)) ∨ currentWork s = some .shown ∨ currentInstr s = some .init)
    ∧ (t.lastAction ≠ s.lastAction →
      currentInstr s = some .stepNewdata ∨ currentWork s = some .shown ∨ currentInstr s = some .init)
    ∧ (t.row ≠ s.row ∨ t.pass ≠ s.pass →
      currentInstr s = some .stepNewdata ∨ currentInstr s = some .stepDisplayrow ∨ currentInstr s = some .init)
    ∧ (t.busy ≠ s.busy →
      currentInstr s = some .step ∨ currentWork s = some .phase3 ∨ currentInstr s = some .init)
    ∧ (t.framePending ≠ s.framePending →
      currentWork s = some .request ∨ (∃ f, currentInstr s = some (.setframe f))
      ∨ currentInstr s = some .stepIdle ∨ currentInstr s = some .init)
    ∧ (t.ie ≠ s.ie →
      currentInstr s = some .step ∨ currentWork s = some .phase3 ∨ currentWork s = some .leave
      ∨ ∃ rest, s.schedule = .irq :: rest)
    ∧ (t.outcome ≠ s.outcome →
      currentInstr s = some .step ∨ currentInstr s = some .stepirq ∨ currentWork s = some .phase3
      ∨ currentInstr s = some .outcomeExecuted ∨ currentInstr s = some .outcomeAborted
      ∨ currentInstr s = some .outcomeSkipped)
    ∧ (t.linesDriven ≠ s.linesDriven → currentInstr s = some .init)
    ∧ (t.isreadyResult ≠ s.isreadyResult → currentInstr s = some .isready)
    ∧ (t.tau ≠ s.tau → ∃ more rest, s.schedule = .tick more :: rest)
    ∧ t.cfg = s.cfg

/-- The stamp of `STEP.COMPUTEROW` and phase 3 of `STEP`, wherever they come (R103 (a), D18, R131): the stamp takes a fresh
sample in its own event and selects DisplayRow, nothing else; phase 3 writes `IE` 0 then 1, clears `busy` and reports
Executed, nothing else. -/
def Obligations.StampAndPhase3Events : Prop :=
  ∀ (s : State) (k : Nat) (rest : List Choice) (ws : List Work),
    s.schedule = .advance k :: rest ∨ s.schedule = [] ∧ rest = [] ∧ k = 0 →
    (s.handler = none → s.normal = .shown :: ws → step s = .next { s with
      lastAction := s.tau % 2 ^ s.cfg.timeW, state := 3, normal := ws, schedule := rest, pick := k })
    ∧ (s.handler = some (.shown :: ws) → step s = .next { s with
      lastAction := s.tau % 2 ^ s.cfg.timeW, state := 3, handler := some ws, schedule := rest, pick := k })
    ∧ (s.handler = none → s.normal = .phase3 :: ws → step s = .next { s with
      busy := false, ie := true, ieTrace := s.ieTrace ++ [false, true], outcome := 0b00#2, normal := ws
      schedule := rest, pick := k })

/-- R34 (f) and R122: from a coherent state the step that ends a `SEND` leaves `CLK` = 1, `DATA` at bit 0 of the word on the
outputs and the outputs enabled; and outside a `SEND`, in any state, no step but `INIT` and the start of the next `SEND`
moves a line or the external register. -/
def Obligations.LinesRestBetweenSends : Prop :=
  (∀ s t : State, Coherent s → sendInFlight s = true → step s = .next t → sendInFlight t = false →
    t.clk = true ∧ t.data = t.qr.getLsbD 0 ∧ t.oe = !s.cfg.oeBlankLevel)
  ∧ (∀ s t : State, sendInFlight s = false → step s = .next t → sendInFlight t = false →
    currentInstr s ≠ some .init →
    t.data = s.data ∧ t.clk = s.clk ∧ t.oe = s.oe ∧ t.sr = s.sr ∧ t.qr = s.qr)

/-- At reset no register holds a value above its width, and the widths are those of R6. -/
def Obligations.ResetRegistersWithinWidths : Prop :=
  WithinWidths State.reset
  ∧ State.reset.cfg.intensityW = 4 ∧ State.reset.cfg.stateW = 8 ∧ State.reset.cfg.rowW = 4
  ∧ State.reset.cfg.passW = 4 ∧ State.reset.cfg.timeW = 32

/-- R11: no stored value ever exceeds its width. From every state in which that holds, whatever the host presents and
however time and the interrupt are scheduled, it holds of a next state. Which widths are legal is the model's reading of
D4, D5 and D23 (log entry 31). -/
def Obligations.StepKeepsRegistersWithinWidths : Prop :=
  ∀ s t : State, WithinWidths s → step s = .next t → WithinWidths t

/-- R161: the outputs are enabled after reset and show whatever the external register powered up with, a free value (log
entry 1); an `INIT` at any time leaves them enabled and showing what the register holds; and from then on pins and LEDs
stay so in every step until a `SEND` begins. The level that blanks, the reset levels and the device are PRESUMED (log
entries 12, 13, 14). -/
def Obligations.PowerUpContentsShownUntilFirstSend : Prop :=
  (outputsEnabled State.reset = true
    ∧ ∀ r c, lit State.reset r c = (!Config.powerUpQr.getLsbD r && Config.powerUpQr.getLsbD (10 + c)))
  ∧ (∀ s : State, s.handler = none → s.normal = [] → s.cfg.lineReset.oe ≠ s.cfg.oeBlankLevel →
    ∃ t, exec .init s = .next t ∧ ∀ k, outputPin t k = some (s.qr.getLsbD k))
  ∧ (∀ s t : State, s.cfg.lineReset.oe ≠ s.cfg.oeBlankLevel → outputsEnabled s = true → sendInFlight s = false →
    step s = .next t → sendInFlight t = false →
    (∀ k, outputPin t k = outputPin s k) ∧ ∀ r c, lit t r c = lit s r c)
end

