-- ==== Sys2Proof/Laws/Memory.lean ====
section
/-! SUPPORT. The laws of the frame buffer: read after write, and that every operation keeps the canonical form. -/

namespace Sys2Proof.Machine

open Sys2Proof

/-- A read of the cell just written gives the value written. -/
@[simp] theorem readCell_writeCell_same (m : List Cell) (i : Nat) (v : Nat) :
    readCell (writeCell m i v) i = some v := by
  induction m with
  | nil => simp [writeCell, readCell]
  | cons c rest ih =>
    obtain ⟨a, w⟩ := c
    by_cases h : i < a
    · simp [writeCell, readCell, h]
    · by_cases e : i = a
      · simp [writeCell, readCell, e]
      · simp [writeCell, readCell, h, e, Ne.symm e, ih]

/-- A write leaves every other cell as it was. -/
theorem readCell_writeCell_other (m : List Cell) (i j : Nat) (v : Nat) (ne : j ≠ i) :
    readCell (writeCell m i v) j = readCell m j := by
  induction m with
  | nil => simp [writeCell, readCell, Ne.symm ne]
  | cons c rest ih =>
    obtain ⟨a, w⟩ := c
    by_cases h : i < a
    · simp [writeCell, readCell, h, Ne.symm ne]
    · by_cases e : i = a
      · subst e; simp [writeCell, readCell, Ne.symm ne]
      · simp [writeCell, readCell, h, e, ih]

/-- A read after a write, in one line. -/
theorem readCell_writeCell (m : List Cell) (i j : Nat) (v : Nat) :
    readCell (writeCell m i v) j = if j = i then some v else readCell m j := by
  split
  · next h => subst h; simp
  · next h => exact readCell_writeCell_other m i j v h

/-- The entries after a write are the old ones and the one written. -/
theorem mem_writeCell {m : List Cell} {i : Nat} {v : Nat} {c : Cell} (h : c ∈ writeCell m i v) :
    c = (i, v) ∨ c ∈ m := by
  induction m with
  | nil => simpa [writeCell] using h
  | cons d rest ih =>
    obtain ⟨a, w⟩ := d
    simp only [writeCell] at h
    split at h
    · simpa using h
    · split at h
      · rcases List.mem_cons.1 h with h | h
        · exact .inl h
        · exact .inr (List.mem_cons_of_mem _ h)
      · rcases List.mem_cons.1 h with h | h
        · exact .inr (by simp [h])
        · rcases ih h with h | h
          · exact .inl h
          · exact .inr (List.mem_cons_of_mem _ h)

/-- A write in the address space keeps the canonical form. -/
theorem writeCell_wf {m : List Cell} {i : Nat} (v : Nat) (wf : Memory.wf m) (bound : i < numCells) :
    Memory.wf (writeCell m i v) := by
  obtain ⟨sorted, small⟩ := wf
  refine ⟨?_, fun c hc => ?_⟩
  · induction m with
    | nil => simp [writeCell]
    | cons d rest ih =>
      obtain ⟨a, w⟩ := d
      obtain ⟨above, sortedRest⟩ := List.pairwise_cons.1 sorted
      simp only [writeCell]
      split
      · next h =>
        refine List.pairwise_cons.2 ⟨fun c hc => ?_, sorted⟩
        rcases List.mem_cons.1 hc with rfl | hc
        · exact h
        · exact Nat.lt_trans h (above c hc)
      · next h =>
        split
        · next e => subst e; exact List.pairwise_cons.2 ⟨above, sortedRest⟩
        · next e =>
          refine List.pairwise_cons.2 ⟨fun c hc => ?_, ih sortedRest fun c hc => small c (List.mem_cons_of_mem _ hc)⟩
          rcases mem_writeCell hc with rfl | hc
          · show a < i
            omega
          · exact above c hc
  · rcases mem_writeCell hc with rfl | hc
    · exact bound
    · exact small c hc

/-- A frame written whole keeps the canonical form. -/
theorem writeFrame_wf {m : List Cell} {i : Nat} {frame : List Nat} (wf : Memory.wf m)
    (bound : i + frame.length ≤ numCells) : Memory.wf (writeFrame m i frame) := by
  induction frame generalizing m i with
  | nil => exact wf
  | cons v vs ih =>
    simp only [List.length_cons] at bound
    exact ih (writeCell_wf v wf (by omega)) (by omega)

/-- What a cell reads as after a frame is written whole. -/
theorem readCell_writeFrame (m : List Cell) (i : Nat) (frame : List Nat) (j : Nat) :
    readCell (writeFrame m i frame) j =
      if i ≤ j ∧ j < i + frame.length then frame[j - i]? else readCell m j := by
  induction frame generalizing m i with
  | nil => simp only [writeFrame, List.length_nil]; rw [if_neg (by omega)]
  | cons v vs ih =>
    rw [writeFrame, ih, readCell_writeCell]
    simp only [List.length_cons]
    by_cases h : j = i
    · subst h; simp
    · rw [if_neg h]
      by_cases g : i + 1 ≤ j ∧ j < i + 1 + vs.length
      · rw [if_pos g, if_pos (by omega), show j - i = (j - (i + 1)) + 1 by omega]
        rfl
      · rw [if_neg g, if_neg (by omega)]

/-- Reading a run of written cells succeeds. -/
theorem readCells_isSome {m : List Cell} {i n : Nat} (h : ∀ k, k < n → (readCell m (i + k)).isSome) :
    (readCells m i n).isSome := by
  induction n generalizing i with
  | zero => simp [readCells]
  | succ n ih =>
    obtain ⟨v, hv⟩ := Option.isSome_iff_exists.1 (by simpa using h 0 (by omega))
    obtain ⟨vs, hvs⟩ := Option.isSome_iff_exists.1
      (ih (i := i + 1) fun k hk => by have := h (k + 1) (by omega); rwa [show i + (k + 1) = i + 1 + k by omega] at this)
    simp [readCells, hv, hvs]

/-- A run of cells read gives, in order, what each cell reads as. -/
theorem readCells_some {m : List Cell} {i n : Nat} {vs : List Nat} (h : readCells m i n = some vs) :
    vs.length = n ∧ ∀ k, k < n → readCell m (i + k) = vs[k]? := by
  induction n generalizing i vs with
  | zero => simp [readCells] at h; subst h; simp
  | succ n ih =>
    simp only [readCells] at h
    split at h
    · next v ws hv hws =>
      cases h
      obtain ⟨len, at_k⟩ := ih hws
      refine ⟨by simp [len], fun k hk => ?_⟩
      cases k with
      | zero => simpa using hv
      | succ k => rw [show i + (k + 1) = i + 1 + k by omega, at_k k (by omega)]; rfl
    · cases h

/-- A missing cell makes the read of its run fail. -/
theorem readCells_none {m : List Cell} {i n k : Nat} (hk : k < n) (h : readCell m (i + k) = none) :
    readCells m i n = none := by
  cases e : readCells m i n with
  | none => rfl
  | some vs =>
    obtain ⟨len, at_k⟩ := readCells_some e
    rw [at_k k hk, List.getElem?_eq_none_iff] at h
    omega

end Sys2Proof.Machine
end

