-- ==== Sys2Proof/Laws/State.lean ====
section
/-! SUPPORT. For each shared update of the state, what it leaves in each field: one lemma a field, true by unfolding. -/

namespace Sys2Proof.Machine

open Sys2Proof

variable (s : State)

/-! ### `lineWrite` -/

@[simp] theorem lineWrite_cfg (e : LineEvent) : (lineWrite e s).cfg = s.cfg := rfl
@[simp] theorem lineWrite_fb (e : LineEvent) : (lineWrite e s).fb = s.fb := rfl
@[simp] theorem lineWrite_state (e : LineEvent) : (lineWrite e s).state = s.state := rfl
@[simp] theorem lineWrite_row (e : LineEvent) : (lineWrite e s).row = s.row := rfl
@[simp] theorem lineWrite_pass (e : LineEvent) : (lineWrite e s).pass = s.pass := rfl
@[simp] theorem lineWrite_lastAction (e : LineEvent) : (lineWrite e s).lastAction = s.lastAction := rfl
@[simp] theorem lineWrite_busy (e : LineEvent) : (lineWrite e s).busy = s.busy := rfl
@[simp] theorem lineWrite_framePending (e : LineEvent) : (lineWrite e s).framePending = s.framePending := rfl
@[simp] theorem lineWrite_data (e : LineEvent) : (lineWrite e s).data = if e.line = .data then e.level else s.data := rfl
@[simp] theorem lineWrite_clk (e : LineEvent) : (lineWrite e s).clk = if e.line = .clk then e.level else s.clk := rfl
@[simp] theorem lineWrite_oe (e : LineEvent) : (lineWrite e s).oe = if e.line = .oe then e.level else s.oe := rfl
@[simp] theorem lineWrite_linesDriven (e : LineEvent) : (lineWrite e s).linesDriven = s.linesDriven := rfl
@[simp] theorem lineWrite_ie (e : LineEvent) : (lineWrite e s).ie = s.ie := rfl
@[simp] theorem lineWrite_tau (e : LineEvent) : (lineWrite e s).tau = s.tau := rfl
@[simp] theorem lineWrite_sr (e : LineEvent) : (lineWrite e s).sr = if clockRises e s then (s.sr <<< 1) ||| (BitVec.ofBool s.data).setWidth 16 else s.sr := rfl
@[simp] theorem lineWrite_qr (e : LineEvent) : (lineWrite e s).qr = if clockRises e s then s.sr else s.qr := rfl
@[simp] theorem lineWrite_outcome (e : LineEvent) : (lineWrite e s).outcome = s.outcome := rfl
@[simp] theorem lineWrite_isreadyResult (e : LineEvent) : (lineWrite e s).isreadyResult = s.isreadyResult := rfl
@[simp] theorem lineWrite_trace (e : LineEvent) : (lineWrite e s).trace = s.trace ++ [e] := rfl
@[simp] theorem lineWrite_ieTrace (e : LineEvent) : (lineWrite e s).ieTrace = s.ieTrace := rfl
@[simp] theorem lineWrite_normal (e : LineEvent) : (lineWrite e s).normal = s.normal := rfl
@[simp] theorem lineWrite_handler (e : LineEvent) : (lineWrite e s).handler = s.handler := rfl
@[simp] theorem lineWrite_program (e : LineEvent) : (lineWrite e s).program = s.program := rfl
@[simp] theorem lineWrite_schedule (e : LineEvent) : (lineWrite e s).schedule = s.schedule := rfl
@[simp] theorem lineWrite_pick (e : LineEvent) : (lineWrite e s).pick = s.pick := rfl

/-! ### `pushWork` -/

@[simp] theorem pushWork_cfg (ws : List Work) : (pushWork ws s).cfg = s.cfg := rfl
@[simp] theorem pushWork_fb (ws : List Work) : (pushWork ws s).fb = s.fb := rfl
@[simp] theorem pushWork_state (ws : List Work) : (pushWork ws s).state = s.state := rfl
@[simp] theorem pushWork_row (ws : List Work) : (pushWork ws s).row = s.row := rfl
@[simp] theorem pushWork_pass (ws : List Work) : (pushWork ws s).pass = s.pass := rfl
@[simp] theorem pushWork_lastAction (ws : List Work) : (pushWork ws s).lastAction = s.lastAction := rfl
@[simp] theorem pushWork_busy (ws : List Work) : (pushWork ws s).busy = s.busy := rfl
@[simp] theorem pushWork_framePending (ws : List Work) : (pushWork ws s).framePending = s.framePending := rfl
@[simp] theorem pushWork_data (ws : List Work) : (pushWork ws s).data = s.data := rfl
@[simp] theorem pushWork_clk (ws : List Work) : (pushWork ws s).clk = s.clk := rfl
@[simp] theorem pushWork_oe (ws : List Work) : (pushWork ws s).oe = s.oe := rfl
@[simp] theorem pushWork_linesDriven (ws : List Work) : (pushWork ws s).linesDriven = s.linesDriven := rfl
@[simp] theorem pushWork_ie (ws : List Work) : (pushWork ws s).ie = s.ie := rfl
@[simp] theorem pushWork_tau (ws : List Work) : (pushWork ws s).tau = s.tau := rfl
@[simp] theorem pushWork_sr (ws : List Work) : (pushWork ws s).sr = s.sr := rfl
@[simp] theorem pushWork_qr (ws : List Work) : (pushWork ws s).qr = s.qr := rfl
@[simp] theorem pushWork_outcome (ws : List Work) : (pushWork ws s).outcome = s.outcome := rfl
@[simp] theorem pushWork_isreadyResult (ws : List Work) : (pushWork ws s).isreadyResult = s.isreadyResult := rfl
@[simp] theorem pushWork_trace (ws : List Work) : (pushWork ws s).trace = s.trace := rfl
@[simp] theorem pushWork_ieTrace (ws : List Work) : (pushWork ws s).ieTrace = s.ieTrace := rfl
@[simp] theorem pushWork_normal (ws : List Work) : (pushWork ws s).normal = if s.handler.isSome then s.normal else ws ++ s.normal := rfl
@[simp] theorem pushWork_handler (ws : List Work) : (pushWork ws s).handler = s.handler.map (ws ++ ·) := rfl
@[simp] theorem pushWork_program (ws : List Work) : (pushWork ws s).program = s.program := rfl
@[simp] theorem pushWork_schedule (ws : List Work) : (pushWork ws s).schedule = s.schedule := rfl
@[simp] theorem pushWork_pick (ws : List Work) : (pushWork ws s).pick = s.pick := rfl

/-! ### `writeIe` -/

@[simp] theorem writeIe_cfg (b : Bool) : (writeIe b s).cfg = s.cfg := rfl
@[simp] theorem writeIe_fb (b : Bool) : (writeIe b s).fb = s.fb := rfl
@[simp] theorem writeIe_state (b : Bool) : (writeIe b s).state = s.state := rfl
@[simp] theorem writeIe_row (b : Bool) : (writeIe b s).row = s.row := rfl
@[simp] theorem writeIe_pass (b : Bool) : (writeIe b s).pass = s.pass := rfl
@[simp] theorem writeIe_lastAction (b : Bool) : (writeIe b s).lastAction = s.lastAction := rfl
@[simp] theorem writeIe_busy (b : Bool) : (writeIe b s).busy = s.busy := rfl
@[simp] theorem writeIe_framePending (b : Bool) : (writeIe b s).framePending = s.framePending := rfl
@[simp] theorem writeIe_data (b : Bool) : (writeIe b s).data = s.data := rfl
@[simp] theorem writeIe_clk (b : Bool) : (writeIe b s).clk = s.clk := rfl
@[simp] theorem writeIe_oe (b : Bool) : (writeIe b s).oe = s.oe := rfl
@[simp] theorem writeIe_linesDriven (b : Bool) : (writeIe b s).linesDriven = s.linesDriven := rfl
@[simp] theorem writeIe_ie (b : Bool) : (writeIe b s).ie = b := rfl
@[simp] theorem writeIe_tau (b : Bool) : (writeIe b s).tau = s.tau := rfl
@[simp] theorem writeIe_sr (b : Bool) : (writeIe b s).sr = s.sr := rfl
@[simp] theorem writeIe_qr (b : Bool) : (writeIe b s).qr = s.qr := rfl
@[simp] theorem writeIe_outcome (b : Bool) : (writeIe b s).outcome = s.outcome := rfl
@[simp] theorem writeIe_isreadyResult (b : Bool) : (writeIe b s).isreadyResult = s.isreadyResult := rfl
@[simp] theorem writeIe_trace (b : Bool) : (writeIe b s).trace = s.trace := rfl
@[simp] theorem writeIe_ieTrace (b : Bool) : (writeIe b s).ieTrace = s.ieTrace ++ [b] := rfl
@[simp] theorem writeIe_normal (b : Bool) : (writeIe b s).normal = s.normal := rfl
@[simp] theorem writeIe_handler (b : Bool) : (writeIe b s).handler = s.handler := rfl
@[simp] theorem writeIe_program (b : Bool) : (writeIe b s).program = s.program := rfl
@[simp] theorem writeIe_schedule (b : Bool) : (writeIe b s).schedule = s.schedule := rfl
@[simp] theorem writeIe_pick (b : Bool) : (writeIe b s).pick = s.pick := rfl

/-! ### `reportOutcome` -/

@[simp] theorem reportOutcome_cfg (c : BitVec 2) : (reportOutcome c s).cfg = s.cfg := rfl
@[simp] theorem reportOutcome_fb (c : BitVec 2) : (reportOutcome c s).fb = s.fb := rfl
@[simp] theorem reportOutcome_state (c : BitVec 2) : (reportOutcome c s).state = s.state := rfl
@[simp] theorem reportOutcome_row (c : BitVec 2) : (reportOutcome c s).row = s.row := rfl
@[simp] theorem reportOutcome_pass (c : BitVec 2) : (reportOutcome c s).pass = s.pass := rfl
@[simp] theorem reportOutcome_lastAction (c : BitVec 2) : (reportOutcome c s).lastAction = s.lastAction := rfl
@[simp] theorem reportOutcome_busy (c : BitVec 2) : (reportOutcome c s).busy = s.busy := rfl
@[simp] theorem reportOutcome_framePending (c : BitVec 2) : (reportOutcome c s).framePending = s.framePending := rfl
@[simp] theorem reportOutcome_data (c : BitVec 2) : (reportOutcome c s).data = s.data := rfl
@[simp] theorem reportOutcome_clk (c : BitVec 2) : (reportOutcome c s).clk = s.clk := rfl
@[simp] theorem reportOutcome_oe (c : BitVec 2) : (reportOutcome c s).oe = s.oe := rfl
@[simp] theorem reportOutcome_linesDriven (c : BitVec 2) : (reportOutcome c s).linesDriven = s.linesDriven := rfl
@[simp] theorem reportOutcome_ie (c : BitVec 2) : (reportOutcome c s).ie = s.ie := rfl
@[simp] theorem reportOutcome_tau (c : BitVec 2) : (reportOutcome c s).tau = s.tau := rfl
@[simp] theorem reportOutcome_sr (c : BitVec 2) : (reportOutcome c s).sr = s.sr := rfl
@[simp] theorem reportOutcome_qr (c : BitVec 2) : (reportOutcome c s).qr = s.qr := rfl
@[simp] theorem reportOutcome_outcome (c : BitVec 2) : (reportOutcome c s).outcome = c := rfl
@[simp] theorem reportOutcome_isreadyResult (c : BitVec 2) : (reportOutcome c s).isreadyResult = s.isreadyResult := rfl
@[simp] theorem reportOutcome_trace (c : BitVec 2) : (reportOutcome c s).trace = s.trace := rfl
@[simp] theorem reportOutcome_ieTrace (c : BitVec 2) : (reportOutcome c s).ieTrace = s.ieTrace := rfl
@[simp] theorem reportOutcome_normal (c : BitVec 2) : (reportOutcome c s).normal = s.normal := rfl
@[simp] theorem reportOutcome_handler (c : BitVec 2) : (reportOutcome c s).handler = s.handler := rfl
@[simp] theorem reportOutcome_program (c : BitVec 2) : (reportOutcome c s).program = s.program := rfl
@[simp] theorem reportOutcome_schedule (c : BitVec 2) : (reportOutcome c s).schedule = s.schedule := rfl
@[simp] theorem reportOutcome_pick (c : BitVec 2) : (reportOutcome c s).pick = s.pick := rfl

/-! ### `takeInterrupt` -/

@[simp] theorem takeInterrupt_cfg : (takeInterrupt s).cfg = s.cfg := rfl
@[simp] theorem takeInterrupt_fb : (takeInterrupt s).fb = s.fb := rfl
@[simp] theorem takeInterrupt_state : (takeInterrupt s).state = s.state := rfl
@[simp] theorem takeInterrupt_row : (takeInterrupt s).row = s.row := rfl
@[simp] theorem takeInterrupt_pass : (takeInterrupt s).pass = s.pass := rfl
@[simp] theorem takeInterrupt_lastAction : (takeInterrupt s).lastAction = s.lastAction := rfl
@[simp] theorem takeInterrupt_busy : (takeInterrupt s).busy = s.busy := rfl
@[simp] theorem takeInterrupt_framePending : (takeInterrupt s).framePending = s.framePending := rfl
@[simp] theorem takeInterrupt_data : (takeInterrupt s).data = s.data := rfl
@[simp] theorem takeInterrupt_clk : (takeInterrupt s).clk = s.clk := rfl
@[simp] theorem takeInterrupt_oe : (takeInterrupt s).oe = s.oe := rfl
@[simp] theorem takeInterrupt_linesDriven : (takeInterrupt s).linesDriven = s.linesDriven := rfl
@[simp] theorem takeInterrupt_ie : (takeInterrupt s).ie = false := rfl
@[simp] theorem takeInterrupt_tau : (takeInterrupt s).tau = s.tau := rfl
@[simp] theorem takeInterrupt_sr : (takeInterrupt s).sr = s.sr := rfl
@[simp] theorem takeInterrupt_qr : (takeInterrupt s).qr = s.qr := rfl
@[simp] theorem takeInterrupt_outcome : (takeInterrupt s).outcome = s.outcome := rfl
@[simp] theorem takeInterrupt_isreadyResult : (takeInterrupt s).isreadyResult = s.isreadyResult := rfl
@[simp] theorem takeInterrupt_trace : (takeInterrupt s).trace = s.trace := rfl
@[simp] theorem takeInterrupt_ieTrace : (takeInterrupt s).ieTrace = s.ieTrace := rfl
@[simp] theorem takeInterrupt_normal : (takeInterrupt s).normal = s.normal := rfl
@[simp] theorem takeInterrupt_handler : (takeInterrupt s).handler = some [.run stepirqCode, .leave] := rfl
@[simp] theorem takeInterrupt_program : (takeInterrupt s).program = s.program := rfl
@[simp] theorem takeInterrupt_schedule : (takeInterrupt s).schedule = s.schedule := rfl
@[simp] theorem takeInterrupt_pick : (takeInterrupt s).pick = s.pick := rfl

/-! ### `returnInterrupt` -/

@[simp] theorem returnInterrupt_cfg : (returnInterrupt s).cfg = s.cfg := rfl
@[simp] theorem returnInterrupt_fb : (returnInterrupt s).fb = s.fb := rfl
@[simp] theorem returnInterrupt_state : (returnInterrupt s).state = s.state := rfl
@[simp] theorem returnInterrupt_row : (returnInterrupt s).row = s.row := rfl
@[simp] theorem returnInterrupt_pass : (returnInterrupt s).pass = s.pass := rfl
@[simp] theorem returnInterrupt_lastAction : (returnInterrupt s).lastAction = s.lastAction := rfl
@[simp] theorem returnInterrupt_busy : (returnInterrupt s).busy = s.busy := rfl
@[simp] theorem returnInterrupt_framePending : (returnInterrupt s).framePending = s.framePending := rfl
@[simp] theorem returnInterrupt_data : (returnInterrupt s).data = s.data := rfl
@[simp] theorem returnInterrupt_clk : (returnInterrupt s).clk = s.clk := rfl
@[simp] theorem returnInterrupt_oe : (returnInterrupt s).oe = s.oe := rfl
@[simp] theorem returnInterrupt_linesDriven : (returnInterrupt s).linesDriven = s.linesDriven := rfl
@[simp] theorem returnInterrupt_ie : (returnInterrupt s).ie = true := rfl
@[simp] theorem returnInterrupt_tau : (returnInterrupt s).tau = s.tau := rfl
@[simp] theorem returnInterrupt_sr : (returnInterrupt s).sr = s.sr := rfl
@[simp] theorem returnInterrupt_qr : (returnInterrupt s).qr = s.qr := rfl
@[simp] theorem returnInterrupt_outcome : (returnInterrupt s).outcome = s.outcome := rfl
@[simp] theorem returnInterrupt_isreadyResult : (returnInterrupt s).isreadyResult = s.isreadyResult := rfl
@[simp] theorem returnInterrupt_trace : (returnInterrupt s).trace = s.trace := rfl
@[simp] theorem returnInterrupt_ieTrace : (returnInterrupt s).ieTrace = s.ieTrace := rfl
@[simp] theorem returnInterrupt_normal : (returnInterrupt s).normal = s.normal := rfl
@[simp] theorem returnInterrupt_handler : (returnInterrupt s).handler = none := rfl
@[simp] theorem returnInterrupt_program : (returnInterrupt s).program = s.program := rfl
@[simp] theorem returnInterrupt_schedule : (returnInterrupt s).schedule = s.schedule := rfl
@[simp] theorem returnInterrupt_pick : (returnInterrupt s).pick = s.pick := rfl

/-! ### `passTime` -/

@[simp] theorem passTime_cfg (n : Nat) : (passTime n s).cfg = s.cfg := rfl
@[simp] theorem passTime_fb (n : Nat) : (passTime n s).fb = s.fb := rfl
@[simp] theorem passTime_state (n : Nat) : (passTime n s).state = s.state := rfl
@[simp] theorem passTime_row (n : Nat) : (passTime n s).row = s.row := rfl
@[simp] theorem passTime_pass (n : Nat) : (passTime n s).pass = s.pass := rfl
@[simp] theorem passTime_lastAction (n : Nat) : (passTime n s).lastAction = s.lastAction := rfl
@[simp] theorem passTime_busy (n : Nat) : (passTime n s).busy = s.busy := rfl
@[simp] theorem passTime_framePending (n : Nat) : (passTime n s).framePending = s.framePending := rfl
@[simp] theorem passTime_data (n : Nat) : (passTime n s).data = s.data := rfl
@[simp] theorem passTime_clk (n : Nat) : (passTime n s).clk = s.clk := rfl
@[simp] theorem passTime_oe (n : Nat) : (passTime n s).oe = s.oe := rfl
@[simp] theorem passTime_linesDriven (n : Nat) : (passTime n s).linesDriven = s.linesDriven := rfl
@[simp] theorem passTime_ie (n : Nat) : (passTime n s).ie = s.ie := rfl
@[simp] theorem passTime_tau (n : Nat) : (passTime n s).tau = s.tau + (n + 1) := rfl
@[simp] theorem passTime_sr (n : Nat) : (passTime n s).sr = s.sr := rfl
@[simp] theorem passTime_qr (n : Nat) : (passTime n s).qr = s.qr := rfl
@[simp] theorem passTime_outcome (n : Nat) : (passTime n s).outcome = s.outcome := rfl
@[simp] theorem passTime_isreadyResult (n : Nat) : (passTime n s).isreadyResult = s.isreadyResult := rfl
@[simp] theorem passTime_trace (n : Nat) : (passTime n s).trace = s.trace := rfl
@[simp] theorem passTime_ieTrace (n : Nat) : (passTime n s).ieTrace = s.ieTrace := rfl
@[simp] theorem passTime_normal (n : Nat) : (passTime n s).normal = s.normal := rfl
@[simp] theorem passTime_handler (n : Nat) : (passTime n s).handler = s.handler := rfl
@[simp] theorem passTime_program (n : Nat) : (passTime n s).program = s.program := rfl
@[simp] theorem passTime_schedule (n : Nat) : (passTime n s).schedule = s.schedule := rfl
@[simp] theorem passTime_pick (n : Nat) : (passTime n s).pick = s.pick := rfl

end Sys2Proof.Machine
end

