-- ==== Sys2Proof/Laws/Ops.lean ====
section
/-! SUPPORT. One lemma for each shared test and operation, saying all it can do; later proofs cite these. -/

namespace Sys2Proof.Machine

open Sys2Proof

/-! ### The tests -/

theorem displayExpired_iff (s : State) :
    displayExpired s = true ↔ 500 ≤ sinceLastAction s := by
  unfold displayExpired rowDisplayCycle; exact decide_eq_true_iff

theorem tooSoon_iff (s : State) : tooSoon s = true ↔ sinceLastAction s < 2 := by
  unfold tooSoon minStepInterval; exact decide_eq_true_iff

/-- The elapsed time depends on the parameters, real time and the stamp only. -/
theorem sinceLastAction_congr {s t : State} (cfg : t.cfg = s.cfg) (tau : t.tau = s.tau)
    (stamp : t.lastAction = s.lastAction) : sinceLastAction t = sinceLastAction s := by
  simp only [sinceLastAction, now, cfg, tau, stamp]

theorem widthsLegal_iff (c : Config) :
    c.widthsLegal = true ↔ 4 ≤ c.intensityW ∧ 3 ≤ c.stateW ∧ 4 ≤ c.rowW ∧ 4 ≤ c.passW ∧ 500 < 2 ^ c.timeW
      ∧ c.lastActionReset < 2 ^ c.timeW := by
  unfold Config.widthsLegal rowDisplayCycle; exact decide_eq_true_iff

theorem cursorInRange_iff (s : State) :
    cursorInRange s = true ↔ s.row < 10 ∧ s.pass ≤ s.cfg.maxIntensity.val := by
  unfold cursorInRange numRows; exact decide_eq_true_iff

theorem ready_iff (s : State) : ready s = true ↔ s.state = 0 := by simp [ready]

/-- Elapsed time as an integer: the difference modulo 2^w. -/
theorem elapsed_int (w : Nat) (t u : Nat) : (elapsed w t u : Int) = ((t : Int) - u) % ((2 ^ w : Nat) : Int) :=
  Int.toNat_of_nonneg (Int.emod_nonneg _ (by positivity))

/-- Elapsed time between two samples of an advancing clock is the time between them modulo 2^w. -/
theorem elapsed_add (w t d : Nat) : elapsed w ((t + d) % 2 ^ w) (t % 2 ^ w) = d % 2 ^ w := by
  have h := elapsed_int w ((t + d) % 2 ^ w) (t % 2 ^ w)
  rw [Int.natCast_mod, Int.natCast_mod, Int.emod_sub_emod, Int.sub_emod_emod, Int.natCast_add, add_sub_cancel_left,
    ← Int.natCast_mod] at h
  exact Int.ofNat.inj h

/-- A sample is below 2^w. -/
theorem now_lt (s : State) : now s < 2 ^ s.cfg.timeW := Nat.mod_lt _ (by positivity)

/-- The sample after `d` more microseconds. -/
theorem now_after (s : State) (d : Nat) : now { s with tau := s.tau + d } = (now s + d) % 2 ^ s.cfg.timeW := by
  simp only [now, Nat.mod_add_mod]

/-! ### The cursor -/

/-- What `Advance` does: the next pass, the next row, or the end of the sweep. -/
theorem advanceCursor_cases (s : State) :
    (s.pass + 1 ≤ s.cfg.maxIntensity.val ∧ advanceCursor s = { s with pass := s.pass + 1, state := 2 })
    ∨ (s.cfg.maxIntensity.val < s.pass + 1 ∧ s.row + 1 ≠ 10
        ∧ advanceCursor s = { s with pass := 0, row := s.row + 1, state := 2 })
    ∨ (s.cfg.maxIntensity.val < s.pass + 1 ∧ s.row + 1 = 10
        ∧ advanceCursor s = { s with pass := 0, row := 0, state := 0 }) := by
  by_cases h : s.pass + 1 > s.cfg.maxIntensity.val
  · by_cases g : s.row + 1 = numRows
    · exact .inr (.inr ⟨h, g, by rw [advanceCursor, if_pos h, if_pos g]⟩)
    · exact .inr (.inl ⟨h, g, by rw [advanceCursor, if_pos h, if_neg g]⟩)
  · exact .inl ⟨by omega, by rw [advanceCursor, if_neg h]⟩

/-! ### Line events -/

@[simp] theorem lineWrites_nil (s : State) : lineWrites [] s = s := rfl

@[simp] theorem lineWrites_cons (e : LineEvent) (l : List LineEvent) (s : State) :
    lineWrites (e :: l) s = lineWrites l (lineWrite e s) := rfl

theorem lineWrites_append (l m : List LineEvent) (s : State) :
    lineWrites (l ++ m) s = lineWrites m (lineWrites l s) := List.foldl_append

/-- Line events read nothing of the parameters. -/
theorem lineWrites_cfg (l : List LineEvent) (s : State) (c : Config) :
    lineWrites l { s with cfg := c } = { lineWrites l s with cfg := c } := by
  induction l generalizing s with
  | nil => rfl
  | cons e l ih => exact ih (lineWrite e s)

/-! ### The copy of a frame -/

/-- What one cell write of a copy can do: write the cell picked and leave the others, or, with none left, go on. -/
theorem copyOne_next {left : List Nat} {frame : List Nat} {s t : State} (h : copyOne left frame s = .next t) :
    (left = [] ∧ t = pushWork [.request] s)
    ∨ ∃ i v, left[s.pick % left.length]? = some i ∧ i < numCells ∧ frame[i]? = some v
        ∧ t = pushWork [if (left.eraseIdx (s.pick % left.length)).isEmpty then .request
                        else .copy (left.eraseIdx (s.pick % left.length)) frame]
              { s with fb := writeCell s.fb i v } := by
  simp only [copyOne] at h
  split at h
  · next e =>
    refine .inl ⟨?_, by cases h; rfl⟩
    by_contra ne
    have pos := List.length_pos_iff.2 ne
    rw [List.getElem?_eq_none_iff] at e
    exact absurd (Nat.mod_lt s.pick pos) (by omega)
  · next i e =>
    split at h
    · next lt =>
      split at h
      · cases h
      · next v hv => cases h; exact .inr ⟨i, v, e, lt, hv, rfl⟩
    · cases h

/-- With indexes in range and a frame of 60 cells, a cell write is made. -/
theorem copyOne_answers {left : List Nat} {frame : List Nat} (s : State) (some_left : left ≠ [])
    (in_range : ∀ i ∈ left, i < numCells) (size : frame.length = numCells) :
    ∃ i v, i ∈ left ∧ left[s.pick % left.length]? = some i ∧ frame[i]? = some v
      ∧ copyOne left frame s = .next (pushWork
          [if (left.eraseIdx (s.pick % left.length)).isEmpty then .request
           else .copy (left.eraseIdx (s.pick % left.length)) frame] { s with fb := writeCell s.fb i v }) := by
  have lt := Nat.mod_lt s.pick (List.length_pos_iff.2 some_left)
  have e : left[s.pick % left.length]? = some left[s.pick % left.length] := List.getElem?_eq_getElem lt
  have mem : left[s.pick % left.length] ∈ left := List.getElem_mem lt
  have small := in_range _ mem
  have hv : frame[left[s.pick % left.length]]? = some (frame[left[s.pick % left.length]]'(by omega)) :=
    List.getElem?_eq_getElem (by omega)
  refine ⟨_, _, mem, e, hv, ?_⟩
  simp only [copyOne, e, if_pos small, hv]

/-! ### What happens next -/

/-- The event that comes next does not depend on the schedule. -/
theorem nextWork_fst (s : State) (l : List Choice) (k : Nat) :
    (nextWork { s with schedule := l, pick := k }).1 = (nextWork s).1 := by
  simp only [nextWork]
  split <;> rename_i h <;> try rfl
  split <;> rename_i h <;> try rfl
  split <;> rename_i h <;> rfl

/-- Taking the next event off its list leaves the schedule alone. -/
theorem nextWork_snd (s : State) (l : List Choice) (k : Nat) :
    (nextWork { s with schedule := l, pick := k }).2 = { (nextWork s).2 with schedule := l, pick := k } := by
  simp only [nextWork]
  split <;> rename_i h <;> try rfl
  split <;> rename_i h <;> try rfl
  split <;> rename_i h <;> rfl

/-- All that taking the next event off its list can do. -/
theorem nextWork_cases (s : State) :
    (∃ w ws, s.handler = some (w :: ws) ∧ nextWork s = (w, { s with handler := some ws }))
    ∨ (s.handler = some [] ∧ nextWork s = (.leave, s))
    ∨ (∃ w ws, s.handler = none ∧ s.normal = w :: ws ∧ nextWork s = (w, { s with normal := ws }))
    ∨ (∃ p ps, s.handler = none ∧ s.normal = [] ∧ s.program = p :: ps
        ∧ nextWork s = (.run p.code, { s with program := ps }))
    ∨ (s.handler = none ∧ s.normal = [] ∧ s.program = [] ∧ nextWork s = (.run idlePort.code, s)) := by
  rcases hh : s.handler with _ | ws
  · rcases hn : s.normal with _ | ⟨w, ws⟩
    · rcases hp : s.program with _ | ⟨p, ps⟩
      · exact .inr (.inr (.inr (.inr ⟨rfl, rfl, rfl, by simp [nextWork, hh, hn, hp]⟩)))
      · exact .inr (.inr (.inr (.inl ⟨p, ps, rfl, rfl, rfl, by simp [nextWork, hh, hn, hp]⟩)))
    · exact .inr (.inr (.inl ⟨w, ws, rfl, rfl, by simp [nextWork, hh, hn]⟩))
  · rcases ws with _ | ⟨w, ws⟩
    · exact .inr (.inl ⟨rfl, by simp [nextWork, hh]⟩)
    · exact .inl ⟨w, ws, rfl, by simp [nextWork, hh]⟩

/-- The arrival of the interrupt: taken or lost. -/
theorem interruptArrives_cases (s : State) :
    (s.ie = true ∧ s.handler = none ∧ interruptArrives s = takeInterrupt s)
    ∨ (¬(s.ie = true ∧ s.handler = none) ∧ interruptArrives s = s) := by
  by_cases h : (s.ie && s.handler.isNone) = true
  · exact .inl ⟨by simp_all, by simp_all, by rw [interruptArrives, if_pos h]⟩
  · exact .inr ⟨by simpa using h, by rw [interruptArrives, if_neg h]⟩

end Sys2Proof.Machine
end

