-- ==== Sys2Proof/Laws/PerInstr.lean ====
section
/-! SUPPORT. The statement made for every instruction: its encoding is in the format the opcode table gives its row. -/

namespace Sys2Proof.Laws.Format

open Sys2Proof

/-- An instruction is encoded in the format of its row of the opcode table (R70, R77). -/
def Statement (i : Instr) : Prop := ∀ cfg : Config, (encode cfg i).format = i.format

theorem nop : Statement .nop := fun _ => rfl
theorem setframe (frame : List Nat) : Statement (.setframe frame) := fun _ => rfl
theorem isready : Statement .isready := fun _ => rfl
theorem step : Statement .step := fun _ => rfl
theorem stepirq : Statement .stepirq := fun _ => rfl
theorem reservedOp5 : Statement .reservedOp5 := fun _ => rfl
theorem reservedOp6 : Statement .reservedOp6 := fun _ => rfl
theorem reservedOp7 : Statement .reservedOp7 := fun _ => rfl
theorem init : Statement .init := fun _ => rfl
theorem stepIdle : Statement .stepIdle := fun _ => rfl
theorem stepNewdata : Statement .stepNewdata := fun _ => rfl
theorem stepComputerow : Statement .stepComputerow := fun _ => rfl
theorem stepDisplayrow : Statement .stepDisplayrow := fun _ => rfl
theorem stepCorrupt (code : Nat) : Statement (.stepCorrupt code) := fun _ => rfl
theorem wordR0 (col : ColField) : Statement (.wordR0 col) := fun _ => rfl
theorem wordR1 (col : ColField) : Statement (.wordR1 col) := fun _ => rfl
theorem wordR2 (col : ColField) : Statement (.wordR2 col) := fun _ => rfl
theorem wordR3 (col : ColField) : Statement (.wordR3 col) := fun _ => rfl
theorem wordR4 (col : ColField) : Statement (.wordR4 col) := fun _ => rfl
theorem wordR5 (col : ColField) : Statement (.wordR5 col) := fun _ => rfl
theorem wordR6 (col : ColField) : Statement (.wordR6 col) := fun _ => rfl
theorem wordR7 (col : ColField) : Statement (.wordR7 col) := fun _ => rfl
theorem wordR8 (col : ColField) : Statement (.wordR8 col) := fun _ => rfl
theorem wordR9 (col : ColField) : Statement (.wordR9 col) := fun _ => rfl
theorem send (v : ShiftWord) : Statement (.send v) := fun _ => rfl
theorem outcomeExecuted : Statement .outcomeExecuted := fun _ => rfl
theorem outcomeAborted : Statement .outcomeAborted := fun _ => rfl
theorem outcomeSkipped : Statement .outcomeSkipped := fun _ => rfl
theorem outcomeReserved : Statement .outcomeReserved := fun _ => rfl

end Sys2Proof.Laws.Format
end

