-- ==== Sys2Proof/Laws/Step.lean ====
section
/-! SUPPORT. What one step can do, said once: the schedule's choice, the event taken off its list, the instruction run or
the event made. -/

namespace Sys2Proof.Machine

open Sys2Proof

/-- Fetching reads nothing of the state but the register `state`. -/
theorem fetchCode_congr (w : Work) {s t : State} (h : t.state = s.state) : fetchCode w t = fetchCode w s := by
  cases w <;> simp [fetchCode, h]

/-- Taking the next event off its list changes the lists only. -/
theorem nextWork_lists (s : State) : ∃ n h p, (nextWork s).2 = { s with normal := n, handler := h, program := p } := by
  rcases nextWork_cases s with ⟨w, ws, h, e⟩ | ⟨h, e⟩ | ⟨w, ws, h, e, e'⟩ | ⟨p, ps, h, e, e', e''⟩ | ⟨h, e, e', e''⟩
  · exact ⟨s.normal, _, s.program, by rw [e]⟩
  · exact ⟨s.normal, s.handler, s.program, by rw [e]⟩
  · exact ⟨_, s.handler, s.program, by rw [e']⟩
  · exact ⟨s.normal, s.handler, _, by rw [e'']⟩
  · exact ⟨s.normal, s.handler, s.program, by rw [e'']⟩

/-- An instruction runs in a state that differs in the lists, the schedule and the pick only. -/
theorem fetched_lists (s : State) :
    ∃ n h p l k, fetched s = { s with normal := n, handler := h, program := p, schedule := l, pick := k } := by
  obtain ⟨n, h, p, same⟩ := nextWork_lists s
  simp only [fetched]
  split
  · next k rest e => exact ⟨n, h, p, rest, k, by rw [nextWork_snd, same]⟩
  · exact ⟨n, h, p, s.schedule, 0, by have := nextWork_snd s s.schedule 0; rwa [same] at this⟩

/-- The three choices of the schedule, by what a next state can be. -/
theorem step_choice {s t : State} (h : step s = .next t) :
    (∃ more rest, s.schedule = .tick more :: rest ∧ t = passTime more { s with schedule := rest })
    ∨ (∃ rest, s.schedule = .irq :: rest ∧ t = interruptArrives { s with schedule := rest })
    ∨ (∃ l k, (s.schedule = .advance k :: l ∨ (s.schedule = [] ∧ l = [] ∧ k = 0))
        ∧ runNext { s with schedule := l, pick := k } = .next t
        ∧ currentWork s = some (nextWork s).1
        ∧ fetched s = { (nextWork s).2 with schedule := l, pick := k }) := by
  simp only [step] at h
  split at h
  · next more rest e => cases h; exact .inl ⟨_, _, e, rfl⟩
  · next rest e => cases h; exact .inr (.inl ⟨_, e, rfl⟩)
  · next k rest e =>
    exact .inr (.inr ⟨rest, k, .inl e, h, by simp [currentWork, e], by simp only [fetched, e]; rw [nextWork_snd]⟩)
  · next e =>
    refine .inr (.inr ⟨[], 0, .inr ⟨e, rfl, rfl⟩, by rw [← e]; exact h, by simp [currentWork, e], ?_⟩)
    simp only [fetched, e]
    have := nextWork_snd s [] 0
    rw [← e] at this ⊢
    exact this

/-- All that a step can do: time passes, the interrupt arrives, the instruction fetched runs, or an event that fetches
nothing is made. -/
theorem step_next {s t : State} (h : step s = .next t) :
    (∃ more rest, s.schedule = .tick more :: rest ∧ t = passTime more { s with schedule := rest })
    ∨ (∃ rest, s.schedule = .irq :: rest ∧ t = interruptArrives { s with schedule := rest })
    ∨ (∃ i, currentInstr s = some i ∧ exec i (fetched s) = .next t)
    ∨ (∃ w, currentWork s = some w ∧ fetchCode w s = none ∧ makeEvent w (fetched s) = .next t) := by
  rcases step_choice h with h | h | ⟨l, k, -, r, cw, f⟩
  · exact .inl h
  · exact .inr (.inl h)
  · refine .inr (.inr ?_)
    have e1 := nextWork_fst s l k
    have e2 := nextWork_snd s l k
    rw [← f] at e2
    rw [runNext] at r
    rcases en : nextWork { s with schedule := l, pick := k } with ⟨w, u⟩
    rw [en] at r e1 e2
    simp only at r e1 e2
    subst e1 e2
    obtain ⟨n, hh, p, same⟩ := nextWork_lists s
    rw [fetchCode_congr _ (show (fetched s).state = s.state by rw [f, same])] at r
    have cfg : (fetched s).cfg = s.cfg := by rw [f, same]
    cases hc : fetchCode (nextWork s).1 s with
    | none => rw [hc] at r; exact .inr ⟨_, cw, hc, r⟩
    | some c =>
      rw [hc] at r
      simp only [runCode, cfg] at r
      cases hd : decode s.cfg c with
      | error why => rw [hd] at r; cases r
      | ok i => rw [hd] at r; exact .inl ⟨i, by simp only [currentInstr, currentCode, cw, hc, hd], r⟩

/-! ### The lines of a `SEND` in flight -/

@[simp] theorem isLine_run (c : Code) : (Work.run c).isLine = false := rfl
@[simp] theorem isLine_dispatch : Work.dispatch.isLine = false := rfl
@[simp] theorem isLine_copy (left : List Nat) (frame : List Nat) : (Work.copy left frame).isLine = false := rfl
@[simp] theorem isLine_request : Work.request.isLine = false := rfl
@[simp] theorem isLine_line (e : LineEvent) : (Work.line e).isLine = true := rfl
@[simp] theorem isLine_shown : Work.shown.isLine = false := rfl
@[simp] theorem isLine_phase3 : Work.phase3.isLine = false := rfl
@[simp] theorem isLine_leave : Work.leave.isLine = false := rfl

/-- One line event more. -/
theorem linesAfter_snoc {l : List LineEvent} {s : State} (e : LineEvent) (h : linesAfter l s) :
    linesAfter (l ++ [e]) (lineWrite e s) := by
  obtain ⟨r, data, clk, oe, sr, qr⟩ := h
  refine ⟨r, ?_, ?_, ?_, ?_, ?_⟩ <;> simp [lineWrites_append, clockRises, data, clk, oe, sr, qr]

/-- What is left of a `StepCore` depends on the lines, the external register and the parameters only. -/
theorem coreWork_congr {s t : State} {l : List Work} (h : CoreWork s l) (data : t.data = s.data) (clk : t.clk = s.clk)
    (oe : t.oe = s.oe) (sr : t.sr = s.sr) (qr : t.qr = s.qr) (cfg : t.cfg = s.cfg) : CoreWork t l := by
  cases h with
  | dispatch => exact .dispatch
  | handed v => exact .handed v
  | sending v k more made =>
    obtain ⟨r, a, b, c, d, e⟩ := made
    rw [← cfg] at a b c d e ⊢
    exact .sending v k more ⟨r, data.trans a, clk.trans b, oe.trans c, sr.trans d, qr.trans e⟩
  | sent => exact .sent
  | done => exact .done

/-- The event of a `SEND` that comes after `k` of its tail: the next of the table, the unblanking only at the end. -/
theorem sendTail_next (blank : Bool) (v : ShiftWord) (k : Nat) (more : k < 51) :
    ∃ e, (sendTail blank v).drop k = e :: (sendTail blank v).drop (k + 1) ∧ (k < 50 → e.line ≠ .oe)
      ∧ (k = 50 → e = ⟨.oe, !blank⟩)
      ∧ (sendEvents blank v).take (k + 1) ++ [e] = (sendEvents blank v).take (k + 2) := by
  have len : (sendTail blank v).length = 51 := rfl
  refine ⟨(sendTail blank v)[k], List.drop_eq_getElem_cons (by omega), ?_, ?_, ?_⟩
  · intro h
    interval_cases k <;> simp [sendTail, dataCellEvents, List.range_succ_eq_map]
  · rintro rfl
    rfl
  · exact congrArg _ (List.take_append_getElem (show k < (sendTail blank v).length by omega))

/-- The serial frame of a word reads back as the `SEND` of that word. -/
theorem decode_serialCells (cfg : Config) (w : ShiftWord) : decode cfg (.serial (serialCells w)) = .ok (.send w) := by
  have e : (serialCells w).extractLsb' 1 16 = w := by
    apply BitVec.eq_of_getLsbD_eq
    intro i hi
    rw [BitVec.getLsbD_extractLsb', serialCells, BitVec.getLsbD_append, if_neg (by omega)]
    simp [hi]
  have h : (serialCells w).getLsbD 0 = (serialCells w).getLsbD 1 := by
    rw [serialCells, BitVec.getLsbD_append, BitVec.getLsbD_append]
    simp
  rw [decode, decodeSerial, if_pos h, e]

/-- What `STEP.COMPUTEROW` answers where the cursor is in range and its row is written. -/
theorem execStepComputerow_next {s : State} {cells : List Nat} (range : cursorInRange s = true)
    (written : readRow s.fb s.row = some cells) :
    execStepComputerow s = .next (pushWork
      [.run (.serial (serialCells (shiftWord (rowBits s.row) (colMask cells s.pass)))), .shown] s) := by
  rw [execStepComputerow, if_pos range]
  simp only [written]

end Sys2Proof.Machine
end

