-- ==== Sys2Proof/Laws/Run.lean ====
section
/-! SUPPORT. Runs of several steps: the first step, two runs end to end, an event after its wait, and the line
events of a `SEND` made one by one. -/

namespace Sys2Proof.Machine

open Sys2Proof

/-- A run whose first step answers a next state. -/
theorem core_run_next (M : Host.Core) {s t : M.State} (k : Nat) (h : M.step s = .next t) :
    M.run (k + 1) s = M.run k t := by
  simp only [Host.Core.run, h]

/-- A run whose first step faults. -/
theorem core_run_fault (M : Host.Core) {s : M.State} {r : M.Fault} (k : Nat) (h : M.step s = .fault r) :
    M.run (k + 1) s = .fault r := by
  simp only [Host.Core.run, h]

/-- A run whose first step is refused. -/
theorem core_run_refused (M : Host.Core) {s : M.State} {r : M.Refusal} (k : Nat) (h : M.step s = .refused r) :
    M.run (k + 1) s = .refused r := by
  simp only [Host.Core.run, h]

/-- A run of this machine whose first step answers a next state. -/
theorem run_next {s t : State} (k : Nat) (h : step s = .next t) :
    Host.Core.run core (k + 1) s = Host.Core.run core k t := core_run_next core k h

/-- Two runs end to end. -/
theorem run_add {s t : State} {j : Nat} (k : Nat) (h : Host.Core.run core j s = .next t) :
    Host.Core.run core (j + k) s = Host.Core.run core k t := by
  induction j generalizing s with
  | zero => cases h; rw [Nat.zero_add]
  | succ j ih =>
    cases hs : step s with
    | next u => rw [Nat.succ_add, run_next _ hs]; exact ih (by rw [run_next _ hs] at h; exact h)
    | fault r =>
      have e : Host.Core.run core (j + 1) s = .fault r := core_run_fault core j hs
      rw [e] at h; cases h
    | refused r =>
      have e : Host.Core.run core (j + 1) s = .refused r := core_run_refused core j hs
      rw [e] at h; cases h

/-- One event after its wait. -/
theorem run_waitThen {s t : State} {wait : Nat} {rest : List Choice} (hs : s.schedule = waitThen wait ++ rest)
    (h : step { s with tau := s.tau + wait, schedule := .advance 0 :: rest } = .next t) :
    Host.Core.run core (waitThen wait).length s = .next t := by
  cases wait with
  | zero =>
    rw [waitThen, if_pos rfl] at hs ⊢
    have e : { s with tau := s.tau + 0, schedule := .advance 0 :: rest } = s := by rw [← List.singleton_append, ← hs]; rfl
    rw [e] at h
    exact (run_next 0 h).trans rfl
  | succ n =>
    rw [waitThen, if_neg (by omega)] at hs ⊢
    have st : step s = .next { s with tau := s.tau + (n + 1), schedule := .advance 0 :: rest } := by simp [step, hs, passTime]
    exact (run_next 1 st).trans ((run_next 0 h).trans rfl)

theorem paced_append (a b : List Nat) : paced (a ++ b) = paced a ++ paced b := List.flatMap_append

/-- The first event of a paced schedule, then the others. -/
theorem run_paced_cons {s t : State} {wait : Nat} {waits : List Nat} {sched : List Choice}
    (hs : s.schedule = paced (wait :: waits) ++ sched)
    (h : step { s with tau := s.tau + wait, schedule := .advance 0 :: (paced waits ++ sched) } = .next t) :
    Host.Core.run core (paced (wait :: waits)).length s = Host.Core.run core (paced waits).length t := by
  rw [paced, List.flatMap_cons, List.append_assoc] at hs
  rw [paced, List.flatMap_cons, List.length_append]
  exact run_add _ (run_waitThen hs h)

/-- Line events do not touch the lists, the schedule, the pick and the time. -/
theorem lineWrites_lists (l : List LineEvent) (s : State) (n : List Work) (h : Option (List Work)) (c : List Choice)
    (p τ : Nat) :
    lineWrites l { s with normal := n, handler := h, schedule := c, pick := p, tau := τ }
      = { lineWrites l s with normal := n, handler := h, schedule := c, pick := p, tau := τ } := by
  induction l generalizing s with
  | nil => rfl
  | cons e l ih =>
    simp only [lineWrites, List.foldl_cons]
    exact ih (lineWrite e s)

/-- Line events at the head of the normal context's list, each made after its wait. -/
theorem run_lines (l : List LineEvent) (waits : List Nat) {s : State} {ws : List Work} {sched : List Choice}
    (len : waits.length = l.length) (hh : s.handler = none) (hn : s.normal = l.map .line ++ ws)
    (hs : s.schedule = paced waits ++ sched) (hp : s.pick = 0) :
    Host.Core.run core (paced waits).length s = .next { lineWrites l s with
      normal := ws, handler := none, schedule := sched, pick := 0, tau := s.tau + waits.sum } := by
  induction l generalizing s waits with
  | nil =>
    cases waits with
    | cons w waits => simp at len
    | nil =>
      simp [paced] at hn hs
      rw [← hn, ← hs, ← hh, ← hp]; rfl
  | cons e l ih =>
    cases waits with
    | nil => simp at len
    | cons w waits =>
      rw [run_paced_cons hs (t := { lineWrite e s with
          normal := l.map .line ++ ws, handler := none, schedule := paced waits ++ sched, pick := 0, tau := s.tau + w })
        (by simp [step, runNext, nextWork, hh, hn, fetchCode, makeEvent, lineWrite, clockRises]),
        ih waits (by simpa using len) rfl rfl rfl rfl, lineWrites_lists, List.sum_cons]
      simp only [lineWrites, List.foldl_cons, Nat.add_assoc]

/-- Line events at the head of the handler's list, each made after its wait. -/
theorem run_lines_handler (l : List LineEvent) (waits : List Nat) {s : State} {ws : List Work} {sched : List Choice}
    (len : waits.length = l.length) (hh : s.handler = some (l.map .line ++ ws))
    (hs : s.schedule = paced waits ++ sched) (hp : s.pick = 0) :
    Host.Core.run core (paced waits).length s = .next { lineWrites l s with
      normal := s.normal, handler := some ws, schedule := sched, pick := 0, tau := s.tau + waits.sum } := by
  induction l generalizing s waits with
  | nil =>
    cases waits with
    | cons w waits => simp at len
    | nil =>
      simp [paced] at hh hs
      rw [← hh, ← hs, ← hp]; rfl
  | cons e l ih =>
    cases waits with
    | nil => simp at len
    | cons w waits =>
      rw [run_paced_cons hs (t := { lineWrite e s with
          normal := s.normal, handler := some (l.map .line ++ ws), schedule := paced waits ++ sched, pick := 0
          tau := s.tau + w })
        (by simp [step, runNext, nextWork, hh, fetchCode, makeEvent, lineWrite, clockRises]),
        ih waits (by simpa using len) rfl rfl rfl, lineWrites_lists, List.sum_cons]
      simp only [lineWrites, List.foldl_cons, Nat.add_assoc]

end Sys2Proof.Machine
end

