-- ==== Sys2Proof/Tests/Slice0.lean ====
section
/-! SUPPORT. The model's own tests: ill-formed terms refused, words written out from the tables of the spec decoded, one
or two vectors of spec/95_test_vectors.md an operation, and for each statement states that meet its hypotheses. -/

namespace Sys2Proof.Tests

open Sys2Proof Sys2Proof.Machine

/-! ### Helpers -/

/-- A state by the tuple of spec/95: (state, row, pass, last_action, busy, frame_pending). -/
def before (st : Nat) (row : Nat) (pass : Nat) (last : Nat) (busy fp : Bool) : State :=
  { State.reset with state := st, row := row, pass := pass, lastAction := last, busy := busy, framePending := fp }

/-- The tuple of spec/95 of a next state. -/
def after : Result → Option (Nat × Nat × Nat × Nat × Bool × Bool)
  | .next t => some (t.state, t.row, t.pass, t.lastAction, t.busy, t.framePending)
  | .fault _ => none
  | .refused _ => none

/-- One thing about a next state. -/
def nextHas (p : State → Bool) : Result → Bool
  | .next t => p t
  | .fault _ => false
  | .refused _ => false

/-- The refusal of a step. -/
def refusalOf : Result → Option Refusal
  | .refused r => some r
  | .next _ => none
  | .fault _ => none

/-- The fault of a step. -/
def faultOf : Result → Option Fault
  | .fault r => some r
  | .next _ => none
  | .refused _ => none

/-- A frame with the row of vectors V11 and V17 as its row 0, every other cell 2 (frame B of program P4). -/
def frameB : List Nat := [0, 1, 2, 9, 0, 1] ++ List.replicate 54 2

/-- The frame buffer that holds frame B. -/
def cellsB : List Cell := writeFrame [] 0 frameB

/-- What the encodings decode to, where they decode. -/
def decoded (c : Code) : Option Instr :=
  match decode Config.default c with
  | .ok i => some i
  | .error _ => none

/-! ### WellFormed -/

theorem test_wf_refuses_short_frame : (Instr.setframe (List.replicate 59 0)).wf Config.default = false := by decide
theorem test_wf_refuses_long_frame : (Instr.setframe (List.replicate 61 0)).wf Config.default = false := by decide
theorem test_wf_refuses_wide_cell : (Instr.setframe (16 :: List.replicate 59 0)).wf Config.default = false := by decide
theorem test_wf_admits_frame : (Instr.setframe frameB).wf Config.default = true := by decide
theorem test_wf_refuses_corrupt_code_3 : (Instr.stepCorrupt 0x03).wf Config.default = false := by decide
theorem test_wf_refuses_code_beyond_the_register :
    (Instr.stepCorrupt 0x100).wf Config.default = false ∧ (Instr.stepCorrupt 0x07).wf { stateW := 3 } = true := by decide
theorem test_widths_legal :
    Config.default.widthsLegal = true ∧ Config.widthsLegal { stateW := 2 } = false
    ∧ Config.widthsLegal { intensityW := 3 } = false := by decide
theorem test_wf_admits_corrupt_codes : (Instr.stepCorrupt 0x04).wf Config.default = true ∧ (Instr.stepCorrupt 0xFF).wf Config.default = true := by
  decide
theorem test_contract_refuses_intensity_10 :
    frameKeepsContract (10 :: List.replicate 59 0) = false ∧ frameKeepsContract frameB = true := by decide

/-! ### Decode: words written out from R71 to R77 -/

theorem test_decode_hostcmd :
    (List.map (fun op => decoded (.hostcmd op 0))
      [0b000#3, 0b010#3, 0b011#3, 0b100#3, 0b101#3, 0b110#3, 0b111#3])
    = [some .nop, some .isready, some .step, some .stepirq, some .reservedOp5, some .reservedOp6, some .reservedOp7] := by
  decide

theorem test_decode_setframe_cell_order :
    decoded (.hostcmd 0b001#3 (0b1001 * 2 ^ 236 + 0b00100001))
      = some (.setframe ([1, 2] ++ List.replicate 57 0 ++ [9])) := by decide

theorem test_cells_of_other_width : (List.range 3).map (cellOf 8 0x09FF02) = [0x02, 0xFF, 0x09] := by decide

theorem test_decode_rst : decoded (.rst 1#1) = some .init ∧ decoded (.rst 0#1) = none := by decide

theorem test_decode_state :
    (List.map (fun c => decoded (.state c))
      [0b00000000, 0b00000001, 0b00000010, 0b00000011, 0b00000100, 0b11111111])
    = [some .stepIdle, some .stepNewdata, some .stepComputerow, some .stepDisplayrow, some (.stepCorrupt 4),
       some (.stepCorrupt 255)] := by decide

theorem test_decode_srword_rows_0_to_4 :
    (List.map (fun w => decoded (.srword w))
      [0b1011101111111110#16, 0b0000001111111101#16, 0b0110111111111011#16, 0b1000001111110111#16, 0b0000011111101111#16])
    = [some (.wordR0 0b101110#6), some (.wordR1 0#6), some (.wordR2 0b011011#6), some (.wordR3 0b100000#6),
       some (.wordR4 0b000001#6)] := by decide

theorem test_decode_srword_rows_5_to_9 :
    (List.map (fun w => decoded (.srword w))
      [0b1111111111011111#16, 0b0000001110111111#16, 0b1010101101111111#16, 0b0101011011111111#16, 0b1111110111111111#16])
    = [some (.wordR5 0x3F#6), some (.wordR6 0#6), some (.wordR7 0b101010#6), some (.wordR8 0b010101#6),
       some (.wordR9 0x3F#6)] := by decide

theorem test_decode_srword_refuses :
    (List.map (fun w => decoded (.srword w)) [0x0000#16, 0xFFFF#16, 0xFFFC#16]) = [none, none, none] := by decide

theorem test_decode_serial :
    decoded (.serial 0b10111011111111100#17) = some (.send 0xBBFE#16)
    ∧ decoded (.serial 0b00000000000000011#17) = some (.send 0x0001#16)
    ∧ decoded (.serial 0b00000000000000010#17) = none := by decide

theorem test_decode_outcome :
    (List.map (fun c => decoded (.outcome c)) [0b00#2, 0b01#2, 0b10#2, 0b11#2])
    = [some .outcomeExecuted, some .outcomeAborted, some .outcomeSkipped, some .outcomeReserved] := by decide

theorem test_table_words :
    decodeTableWord 8 0b011 = some .step ∧ decodeTableWord 1 1 = some .init ∧ decodeTableWord 2 0b10 = some .outcomeSkipped
    ∧ decodeTableWord 8 0x2A = some (.stepCorrupt 0x2A) ∧ decodeTableWord 16 0xBBFE = some (.wordR0 0x2E#6)
    ∧ decodeTableWord 24 0x177FC = some (.send 0xBBFE#16) ∧ decodeTableWord 16 0xFFFF = none := by decide

/-! ### The word (V1 to V19c) -/

theorem test_rowBits :
    (List.range 10).map rowBits = [0x3FE#10, 0x3FD#10, 0x3FB#10, 0x3F7#10, 0x3EF#10, 0x3DF#10, 0x3BF#10, 0x37F#10, 0x2FF#10,
      0x1FF#10] := by decide

theorem test_colMask :
    colMask [0, 1, 2, 9, 0, 1] 0 = 0x2E#6 ∧ colMask [0, 1, 2, 9, 0, 1] 1 = 0x0C#6
    ∧ colMask [0, 1, 2, 9, 0, 1] 2 = 0x08#6 ∧ colMask (List.replicate 6 9) 8 = 0x3F#6
    ∧ colMask (List.replicate 6 8) 8 = 0#6 ∧ colMask [0, 0, 0, 0, 0, 1] 0 = 0x20#6 := by decide

theorem test_shiftWord :
    shiftWord 0x3FE#10 0x2E#6 = 0xBBFE#16 ∧ shiftWord 0x3FE#10 0x0C#6 = 0x33FE#16 ∧ shiftWord 0x1FF#10 0x3F#6 = 0xFDFF#16
    ∧ shiftWord 0x3F7#10 0x01#6 = 0x07F7#16 := by decide

/-! ### SEND and the external register (V20, V22) -/

theorem test_send_v20_after_e48 :
    let t := ((sendEvents true 0xBBFE#16).take 49).foldl (fun u e => lineWrite e u)
      { State.reset with clk := true, sr := 0x1234#16, qr := 0x5678#16 }
    t.sr = 0xBBFE#16 ∧ t.qr = 0x5DFF#16 := by decide

theorem test_send_v20_end :
    let t := (sendEvents true 0xBBFE#16).foldl (fun u e => lineWrite e u)
      { State.reset with clk := true, sr := 0x1234#16, qr := 0x5678#16 }
    t.sr = 0x77FC#16 ∧ t.qr = 0xBBFE#16 ∧ t.data = false ∧ t.clk = true ∧ t.oe = false := by decide

theorem test_exec_send_blanks :
    nextHas (fun t => t.oe && t.normal.length == 51) (exec (.send 0x0001#16) State.reset) = true := by decide

theorem test_exec_word_is_sent :
    nextHas (fun t => t.oe && t.normal[1]? == some (.line ⟨.data, true⟩)) (exec (.wordR9 0x3F#6) State.reset) = true := by
  decide

/-! ### The arms (V25 to V36a) -/

theorem test_idle_waits : after (exec .stepIdle (before 0 0 0 0 true false))
    = some (0, 0, 0, 0, true, false) := by decide
theorem test_idle_takes_frame : after (exec .stepIdle (before 0 0 0 0 true true))
    = some (1, 0, 0, 0, true, false) := by decide
theorem test_newdata : after (exec .stepNewdata { before 1 7 1 55 true false with tau := 110 })
    = some (2, 0, 0, 110, true, false) := by decide
theorem test_computerow_word :
    nextHas (fun t => t.normal == [.run (.serial (serialCells 0xBBFE#16)), .shown])
      (exec .stepComputerow { before 2 0 0 110 true false with fb := cellsB }) = true := by decide
theorem test_computerow_torn_row_v49 :
    nextHas (fun t => t.normal.head? == some (.run (.serial (serialCells 0xE3FE#16))))
      (exec .stepComputerow { before 2 0 0 110 false false with
        fb := writeFrame (writeFrame [] 0 (List.replicate 60 1)) 0 [0, 0, 0] }) = true := by decide
theorem test_displayrow_v29 : after (exec .stepDisplayrow { before 3 0 0 120 true false with tau := 619 })
    = some (3, 0, 0, 120, true, false) := by decide
theorem test_displayrow_v30 : after (exec .stepDisplayrow { before 3 0 0 120 true false with tau := 620 })
    = some (2, 0, 1, 120, true, false) := by decide
theorem test_displayrow_v31 : after (exec .stepDisplayrow { before 3 0 1 630 true false with tau := 1130 })
    = some (2, 1, 0, 630, true, false) := by decide
theorem test_displayrow_v32a : after (exec .stepDisplayrow { before 3 9 1 9810 true true with tau := 10310 })
    = some (0, 0, 0, 9810, true, true) := by decide
theorem test_displayrow_v36a :
    after (exec .stepDisplayrow { before 3 2 0 0xFFFFFF00 true false with tau := 0x1000000F4 })
    = some (2, 2, 1, 0xFFFFFF00, true, false) := by decide
theorem test_corrupt_v35 : after (exec (.stepCorrupt 0x2A) (before 0x2A 4 1 77 true true))
    = some (0, 4, 1, 77, true, true) := by decide

/-! ### The guard (V37 to V44, V41, V42) -/

theorem test_step_v37 : nextHas (fun t => t.busy && t.ie && t.normal == [.dispatch, .phase3])
    (exec .step { before 0 0 0 1000 false false with tau := 1002 }) = true := by decide
theorem test_step_v38_v44 : nextHas (fun t => !t.busy && t.ie && t.outcome == 0b01#2 && t.normal.isEmpty)
    (exec .step { before 0 0 0 1000 false false with tau := 1001, ie := false }) = true := by decide
theorem test_stepirq_v41 :
    nextHas (fun t => t.outcome == 0b10#2 && t.handler == some [.leave] && t.trace.isEmpty)
      (exec .stepirq { before 2 0 0 110 true false with tau := 5000, ie := false, handler := some [.leave] })
    = true := by decide
theorem test_stepirq_v42 :
    nextHas (fun t => t.handler == some [.dispatch, .run (.outcome 0b00#2), .leave] && !t.busy && !t.ie)
      (exec .stepirq { before 2 0 0 110 false false with tau := 110, ie := false, handler := some [.leave] })
    = true := by decide
theorem test_outcomes :
    nextHas (fun t => t.outcome == 0b00#2) (exec .outcomeExecuted { State.reset with outcome := 0b01#2 }) = true
    ∧ nextHas (fun t => t.outcome == 0b01#2) (exec .outcomeAborted State.reset) = true
    ∧ nextHas (fun t => t.outcome == 0b10#2) (exec .outcomeSkipped State.reset) = true := by decide

/-! ### The host's operations (V45 to V50) -/

theorem test_nop : exec .nop State.reset = .next State.reset := rfl
theorem test_setframe_atomic_v45 :
    nextHas (fun t => t.framePending && t.fb == cellsB && t.state == 0 && t.trace.isEmpty)
      (exec (.setframe frameB) { State.reset with cfg := { setframeAtomic := true } }) = true := by decide
theorem test_setframe_first_cell :
    nextHas (fun t => t.fb == [(3, 9)] && !t.framePending && t.normal.length == 1)
      (exec (.setframe frameB) { State.reset with pick := 63 }) = true := by decide
theorem test_isready_v46_v47a :
    nextHas (fun t => t.isreadyResult) (exec .isready (before 0 0 0 0 false true)) = true
    ∧ nextHas (fun t => !t.isreadyResult) (exec .isready (before 0x2A 0 0 0 false false)) = true := by decide
theorem test_init_v50 : after (exec .init (before 3 4 1 77 true true)) = some (0, 0, 0, 0, false, false) := by
  decide
theorem test_reserved :
    refusalOf (exec .reservedOp5 State.reset) = some .reservedOp ∧ refusalOf (exec .reservedOp6 State.reset) = some .reservedOp
    ∧ refusalOf (exec .reservedOp7 State.reset) = some .reservedOp
    ∧ refusalOf (exec .outcomeReserved State.reset) = some .reservedOutcome := by decide

/-! ### The LEDs (V54 to V58) -/

theorem test_lit_v54 :
    (List.range 6).map (lit { State.reset with qr := 0xBBFE#16 } 0) = [false, true, true, true, false, true]
    ∧ (List.range 6).map (lit { State.reset with qr := 0xBBFE#16 } 1) = List.replicate 6 false := by decide
theorem test_lit_v55 : (List.range 6).map (lit { State.reset with qr := 0xBBFE#16, oe := true } 0) = List.replicate 6 false := by
  decide
theorem test_lit_v58 : (List.range 6).map (lit { State.reset with qr := 0xFC00#16 } 9) = List.replicate 6 true := by decide

/-! ### Fetching -/

theorem test_fetch_nothing_is_nop : currentInstr State.reset = some .nop := by decide
theorem test_fetch_words :
    currentInstr (State.reset.withFetchWord 8 0b011) = some .step ∧ currentInstr (State.reset.withFetchWord 8 0b100) = some .stepirq
    ∧ currentInstr (State.reset.withFetchWord 1 1) = some .init ∧ currentInstr (State.reset.withFetchWord 8 0x2A) = some (.stepCorrupt 0x2A)
    ∧ currentInstr (State.reset.withFetchWord 16 0x01FF) = some (.wordR9 0#6)
    ∧ currentInstr (State.reset.withFetchWord 17 0x177FC) = some (.send 0xBBFE#16)
    ∧ currentInstr (State.reset.withFetchWord 2 0) = some .outcomeExecuted := by decide
theorem test_step_runs_fetched_step : nextHas (fun t => t.outcome == 0b01#2 && t.program.isEmpty)
    (step (State.reset.withFetchWord 8 0b011)) = true := by decide

/-! ### States that meet the hypotheses of the statements, one theorem a statement, a witness for each clause -/

/-- Reset with frame B in the frame buffer. -/
def full : State := { State.reset with fb := cellsB }

/-- Reset with something for the normal context to do. -/
def working (ws : List Work) : State := { State.reset with normal := ws }

/-- In the interrupt handler, interrupts masked. -/
def handling (ws : List Work) : State := { State.reset with ie := false, handler := some ws }

/-- In the middle of the `SEND` of a normal-context step, after its first event. -/
def sending : State := { full with
  state := 2, busy := true, oe := true, trace := [⟨.oe, true⟩]
  normal := (sendTail true 0xBBFE#16).map .line ++ [.shown, .phase3] }

theorem cellsB_canonical : Memory.wf cellsB := by decide
theorem cellsB_written : frameWritten cellsB := by decide

theorem witness_DecodeOfEncodeIsIdentity :
    (Instr.setframe (List.replicate 60 15)).wf Config.default = true ∧ (Instr.stepCorrupt 0x04).wf Config.default = true
    ∧ (Instr.wordR9 0x3F#6).wf Config.default = true ∧ (Instr.send 0xFFFF#16).wf Config.default = true := by decide

theorem witness_EncodeOfDecodeIsIdentity :
    decoded (.hostcmd 0b001#3 0x21) = some (.setframe ([1, 2] ++ List.replicate 58 0))
    ∧ (Code.hostcmd 0b001#3 0x21).fits Config.default = true ∧ (0b001#3 = 0b001#3 ∨ 0x21 = 0) ∧ decoded (.hostcmd 0b011#3 0) = some .step
    ∧ (0b011#3 = 0b001#3 ∨ 0 = 0) ∧ decoded (.srword 0x01FF#16) = some (.wordR9 0#6) ∧ (Code.hostcmd 0b011#3 0).fits Config.default = true
    ∧ (Code.srword 0x01FF#16).fits Config.default = true ∧ (0b000#3 : BitVec 3) ≠ 0b001#3
    ∧ (0b111#3 : BitVec 3) ≠ 0b001#3 := by decide

theorem witness_ShiftWordReadsBackIffOneRow :
    decoded (.srword 0xBBFE#16) = some (.wordR0 0x2E#6) ∧ (0 : Nat) < 10 ∧ (0xBBFE#16).getLsbD 0 = false
    ∧ decoded (.srword 0x01FF#16) = some (.wordR9 0#6) ∧ (9 : Nat) < 10 ∧ (0x01FF#16).getLsbD 9 = false
    ∧ shiftWord (rowBits 9) 0x3F#6 = shiftWord (rowBits 9) 0x3F#6 := by decide

theorem witness_StateCodeSelectsArm : 0x04 ≤ (0x04) ∧ 0x04 ≤ (0xFF) := by decide

theorem witness_StepRunsDecodedInstruction :
    currentInstr { State.reset with program := [stepPort] } = some .step
    ∧ ({ State.reset with program := [stepPort] } : State).program = stepPort :: []
    ∧ State.reset.schedule = [] ∧ State.reset.handler = none ∧ State.reset.normal = [] ∧ State.reset.program = []
    ∧ (working [.dispatch]).normal = .dispatch :: [] ∧ (working [.dispatch]).schedule = []
    ∧ (handling [.dispatch]).handler = some (.dispatch :: []) ∧ (handling [.dispatch]).schedule = []
    ∧ (working [.run (.srword 0x01FF#16)]).normal = .run (.srword 0x01FF#16) :: []
    ∧ (handling [.run stepirqCode]).handler = some (.run stepirqCode :: [])
    ∧ ({ State.reset with schedule := [.advance 7] } : State).schedule = .advance 7 :: [] := by decide

theorem witness_TickAdvancesTimeOnly : ({ State.reset with schedule := [.tick 0] } : State).schedule = .tick 0 :: [] := by
  decide

theorem witness_InterruptTakenWhereEnabled :
    (let s : State := { State.reset with schedule := [.irq] }
     s.schedule = .irq :: [] ∧ s.ie = true ∧ s.handler = none)
    ∧ (let s : State := { State.reset with schedule := [.irq], ie := false }
       s.schedule = .irq :: [] ∧ s.ie = false)
    ∧ (handling [.leave]).schedule = [] ∧ (handling [.leave]).handler = some [.leave] := by decide

theorem witness_SetframeWritesOneCellFirst :
    (let s : State := { State.reset with pick := 59 }
     s.handler = none ∧ (Instr.setframe frameB).wf s.cfg = true ∧ s.cfg.setframeAtomic = false) := by decide

theorem witness_SetframeAtomicCopiesAll :
    (let s : State := { State.reset with cfg := { setframeAtomic := true } }
     s.handler = none ∧ (Instr.setframe frameB).wf s.cfg = true ∧ s.cfg.setframeAtomic = true) := by decide

theorem witness_SetframeRunCopiesAll :
    (let s : State := { State.reset with
        program := [setframePort (packFrame 4 frameB)], schedule := (List.range 61).map .advance }
     s.handler = none ∧ s.normal = [] ∧ s.cfg.setframeAtomic = false
     ∧ s.program = setframePort (packFrame 4 frameB) :: [] ∧ (List.range 61).length = 61
     ∧ s.schedule = (List.range 61).map .advance ++ []) := by decide

theorem witness_SetframeRefusesOtherLengths :
    State.reset.handler = none ∧ (List.replicate 59 0).length ≠ 60 ∧ (List.replicate 61 0).length ≠ 60 := by decide

theorem witness_IsreadyReturnsIdle : State.reset.handler = none ∧ (before 3 0 0 0 false false).handler = none := by
  decide

theorem witness_InitResetsBlock : full.handler = none ∧ full.normal = [] := by decide

theorem witness_WrongContextRefused :
    (handling [.leave]).handler = some [.leave] ∧ State.reset.handler = none
    ∧ ({ handling [.leave] with ie := true } : State).handler = some [.leave]
    ∧ ({ handling [.leave] with ie := true } : State).ie = true
    ∧ (working [.request]).handler = none ∧ (working [.request]).normal ≠ [] := by decide

theorem witness_ElapsedIsModular : (0 : Nat) < 2 ^ 32 ∧ (0xFFFFFF00 : Nat) < 2 ^ 32 := by decide

theorem test_elapsed_wraps_v36a : elapsed 32 0xF4 0xFFFFFF00 = 500 ∧ elapsed 32 500 0 = 500 ∧ elapsed 16 0 1 = 65535 := by
  decide

theorem witness_StepPassesEntryCheck :
    (let s : State := { State.reset with tau := 2 }
     s.handler = none ∧ s.busy = false ∧ 2 ≤ sinceLastAction s) := by decide

theorem witness_StepAbortsWhenBusyOrTooSoon :
    (let s : State := { State.reset with tau := 1 }
     s.handler = none ∧ sinceLastAction s < 2)
    ∧ (let s : State := { State.reset with tau := 500, busy := true }
       s.handler = none ∧ s.busy = true) := by decide

theorem witness_StampHoldsOffStep :
    State.reset.handler = none ∧ State.reset.lastAction = now State.reset ∧ (0 : Nat) < 2 ∧ (1 : Nat) < 2 := by decide

theorem witness_StepirqSkipsOrDispatches :
    (let s : State := { handling [.leave] with busy := true }
     s.handler = some [.leave] ∧ s.ie = false ∧ s.busy = true)
    ∧ (handling [.leave]).handler = some [.leave] ∧ (handling [.leave]).ie = false ∧ (handling [.leave]).busy = false := by
  decide

theorem witness_SkippedStepirqLeavesNoTrace :
    (let s : State := { sending with schedule := [.irq, .advance 0, .advance 0] }
     s.ie = true ∧ s.handler = none ∧ s.busy = true
     ∧ s.schedule = .irq :: .advance s.pick :: .advance s.pick :: []) := by decide

theorem witness_IdleArmTakesPendingFrame :
    (before 0 0 0 0 true true).framePending = true ∧ State.reset.framePending = false := by decide

theorem witness_DisplayArmHoldsThenAdvances :
    (let s : State := { State.reset with tau := 499 }
     sinceLastAction s < 500)
    ∧ (let s : State := { before 3 9 0 0 true false with tau := 500 }
       500 ≤ sinceLastAction s ∧ s.row ≤ 9 ∧ s.pass ≤ s.cfg.maxIntensity.val
       ∧ s.pass + 1 ≤ s.cfg.maxIntensity.val)
    ∧ (let s : State := { before 3 8 1 0 true false with tau := 500 }
       500 ≤ sinceLastAction s ∧ s.row ≤ 9 ∧ s.pass ≤ s.cfg.maxIntensity.val
       ∧ s.pass = s.cfg.maxIntensity.val ∧ s.row ≤ 8)
    ∧ (let s : State := { before 3 9 1 0 true false with tau := 500 }
       500 ≤ sinceLastAction s ∧ s.row ≤ 9 ∧ s.pass ≤ s.cfg.maxIntensity.val
       ∧ s.pass = s.cfg.maxIntensity.val ∧ s.row = 9) := by decide

theorem witness_WordFormedFromRowAndCells :
    (9 : Nat) < 10 ∧ (5 : Nat) < 6 ∧ [0, 1, 2, 9, 0, 1][5]? = some 1
    ∧ [0, 1, 2, 9, 0, 1][0]? = some 0 := by decide

theorem witness_ComputeArmFormsWord :
    (let s : State := { full with row := 9, pass := 1 }
     s.row ≤ 9 ∧ s.pass ≤ s.cfg.maxIntensity.val
     ∧ (∀ c, c < 6 → (readCell s.fb (s.row * 6 + c)).isSome) ∧ s.handler = none)
    ∧ (let s : State := { full with ie := false, handler := some [.leave] }
       s.row ≤ 9 ∧ s.pass ≤ s.cfg.maxIntensity.val
       ∧ (∀ c, c < 6 → (readCell s.fb (s.row * 6 + c)).isSome) ∧ s.handler = some [.leave]) := by decide

theorem witness_CursorArmsStopOutsideTheirRules :
    (let s : State := { State.reset with fb := writeFrame [] 0 (List.replicate 5 9) }
     s.row ≤ 9 ∧ s.pass ≤ s.cfg.maxIntensity.val ∧ (5 : Nat) < 6
     ∧ readCell s.fb (s.row * 6 + 5) = none)
    ∧ (let s : State := { full with row := 10, tau := 500 }
       (10 ≤ s.row ∨ s.cfg.maxIntensity.val < s.pass) ∧ 500 ≤ sinceLastAction s)
    ∧ (let s : State := { full with pass := 2, tau := 500 }
       (10 ≤ s.row ∨ s.cfg.maxIntensity.val < s.pass) ∧ 500 ≤ sinceLastAction s) := by
  decide

theorem witness_SendTraceIsTheTable : (0 : Nat) < 16 ∧ (15 : Nat) < 16 := by decide

theorem witness_SendBeginsByBlanking : State.reset.handler = none ∧ (handling [.leave]).handler = some [.leave] := by decide

theorem witness_ShiftWordSentUnchanged :
    (Instr.wordR0 0x2E#6).shiftFields = some (0, 0x2E#6) ∧ (Instr.wordR9 0x3F#6).shiftFields = some (9, 0x3F#6) := by decide

theorem witness_LitLedsOfWord :
    (let s : State := { State.reset with qr := shiftWord (rowBits 9) 0x3F#6 }
     (9 : Nat) < 10 ∧ (5 : Nat) < 6 ∧ outputsEnabled s = true ∧ s.qr = shiftWord (rowBits 9) 0x3F#6) := by decide

theorem witness_StepInComputeRowSendsWord :
    (let s : State := { full with
        state := 2, program := [stepPort], schedule := paced (2 :: List.replicate 53 1 ++ [7, 0]) }
     s.handler = none ∧ s.normal = [] ∧ s.busy = false ∧ (List.replicate 53 1).length = 53
     ∧ 2 ≤ sinceLastAction { s with tau := s.tau + 2 } ∧ s.state = 2
     ∧ cursorInRange s = true ∧ readRow s.fb s.row = some [0, 1, 2, 9, 0, 1]
     ∧ s.program = stepPort :: [] ∧ s.schedule = paced (2 :: List.replicate 53 1 ++ [7, 0]) ++ []) := by decide

theorem witness_StepirqInComputeRowSendsWord :
    (let s : State := { full with state := 2, schedule := .irq :: paced (List.replicate 54 1 ++ [7, 0, 3]) }
     s.handler = none ∧ s.ie = true ∧ s.busy = false ∧ s.state = 2 ∧ cursorInRange s = true
     ∧ readRow s.fb s.row = some [0, 1, 2, 9, 0, 1]
     ∧ (List.replicate 54 1).length = 54
     ∧ s.schedule = .irq :: paced (List.replicate 54 1 ++ [7, 0, 3]) ++ []) := by decide

/-- The state a sweep of frame B starts from. -/
def sweepStart : State := { full with
  framePending := true, tau := 2, program := List.replicate (2 + 2 * (10 * (1 + 1))) stepPort
  schedule := sweepSchedule 1 }

theorem witness_SweepSendsEveryWordOnce :
    (let s := sweepStart
     s.handler = none ∧ s.normal = [] ∧ s.busy = false ∧ s.state = 0 ∧ s.framePending = true ∧ frameWritten s.fb
     ∧ 2 ≤ sinceLastAction s
     ∧ rowDisplayCycle < 2 ^ s.cfg.timeW
     ∧ s.program = List.replicate (2 + 2 * (10 * (s.cfg.maxIntensity.val + 1))) stepPort ++ []
     ∧ s.schedule = sweepSchedule s.cfg.maxIntensity.val ++ []) :=
  ⟨rfl, rfl, rfl, rfl, rfl, cellsB_written, by decide, by decide, by decide, (List.append_nil _).symm⟩

/-- A coherent state in the middle of a `SEND`. -/
theorem sending_coherent : Coherent sending where
  memory := cellsB_canonical
  code := by decide
  cursor := by decide
  idle := by decide
  frame := fun _ => cellsB_written
  normalShape := .stepping ((sendTail true 0xBBFE#16).map .line ++ [.shown]) rfl (.sending 0xBBFE#16 0 (by decide) ⟨sending, rfl, rfl, rfl, rfl, rfl⟩)
    (fun _ => rfl) rfl
  handlerShape := .absent rfl
  enable := rfl
  blanked := by decide
  resting := by decide
  unblankedReset := by decide

/-- A coherent state with nothing in flight and a frame written. -/
theorem full_coherent : Coherent { full with program := [stepPort] } where
  memory := cellsB_canonical
  code := by decide
  cursor := by show cursorInRange full = true; decide
  idle := fun _ => ⟨rfl, rfl⟩
  frame := fun _ => cellsB_written
  normalShape := .free rfl rfl
  handlerShape := .absent rfl
  enable := rfl
  blanked := by show full.oe = full.cfg.oeBlankLevel ↔ sendInFlight full = true; decide
  resting := fun _ => .inr ⟨rfl, rfl, rfl⟩
  unblankedReset := by decide

theorem witness_SendIsUnbroken :
    Coherent sending ∧ sending.normal = .line ⟨.clk, false⟩ :: sending.normal.tail
    ∧ step sending = .next { lineWrite ⟨.clk, false⟩ sending with normal := sending.normal.tail }
    ∧ (let s := handling [.line ⟨.clk, true⟩, .leave]
       s.handler = some [.line ⟨.clk, true⟩, .leave]
       ∧ step s = .next { lineWrite ⟨.clk, true⟩ s with handler := some [.leave] }) :=
  ⟨sending_coherent, rfl, rfl, rfl, rfl⟩

theorem witness_NothingLitDuringSend : Coherent sending ∧ sendInFlight sending = true := ⟨sending_coherent, by decide⟩

theorem witness_StepKeepsCoherent :
    Coherent sending ∧ step sending = .next { lineWrite ⟨.clk, false⟩ sending with normal := sending.normal.tail } :=
  ⟨sending_coherent, rfl⟩

theorem witness_CoherentNeverStops :
    Coherent { full with program := [stepPort] } ∧ hostKeepsContexts { full with program := [stepPort] } = true :=
  ⟨full_coherent, by decide⟩

theorem witness_StampAndPhase3Events :
    (working [.shown]).schedule = [] ∧ (working [.shown]).handler = none ∧ (working [.shown]).normal = .shown :: []
    ∧ (handling [.shown, .leave]).handler = some (.shown :: [.leave])
    ∧ (working [.phase3]).handler = none ∧ (working [.phase3]).normal = .phase3 :: []
    ∧ ({ working [.phase3] with schedule := [.advance 7] } : State).schedule = .advance 7 :: [] := by decide

/-- In the `SEND` of a normal-context step with its last event still to make. -/
def ending : State := { lineWrites ((sendEvents true 0xBBFE#16).take 51) full with
  state := 2, busy := true, normal := [.line ⟨.oe, false⟩, .shown, .phase3] }

theorem ending_coherent : Coherent ending where
  memory := cellsB_canonical
  code := by decide
  cursor := by decide
  idle := by decide
  frame := fun _ => cellsB_written
  normalShape := .stepping [.line ⟨.oe, false⟩, .shown] rfl
    (.sending (s := ending) 0xBBFE#16 50 (by decide) ⟨full, rfl, rfl, rfl, rfl, rfl⟩) (fun _ => rfl) rfl
  handlerShape := .absent rfl
  enable := rfl
  blanked := by decide
  resting := by decide
  unblankedReset := by decide

theorem witness_LinesRestBetweenSends :
    Coherent ending ∧ sendInFlight ending = true
    ∧ step ending = .next { lineWrite ⟨.oe, false⟩ ending with normal := [.shown, .phase3] }
    ∧ sendInFlight { lineWrite ⟨.oe, false⟩ ending with normal := [.shown, .phase3] } = false
    ∧ sendInFlight full = false ∧ step full = .next full ∧ currentInstr full ≠ some .init :=
  ⟨ending_coherent, by decide, rfl, by decide, by decide, rfl, by decide⟩

theorem witness_PowerUpContentsShownUntilFirstSend :
    full.handler = none ∧ full.normal = [] ∧ full.cfg.lineReset.oe ≠ full.cfg.oeBlankLevel
    ∧ outputsEnabled full = true ∧ sendInFlight full = false ∧ step full = .next full :=
  ⟨by decide, by decide, by decide, by decide, by decide, rfl⟩

/-- A frame half copied holds no value above its width. -/
theorem copying_within_widths : WithinWidths (working [.copy [59] frameB]) where
  legal := by decide
  state := by decide
  row := by decide
  pass := by decide
  lastAction := by decide
  cells := fun _ _ h => by cases h
  frames := fun left frame h => by
    obtain ⟨rfl, rfl⟩ : left = [59] ∧ frame = frameB := by simpa [working, State.reset] using h
    decide

theorem witness_StepKeepsRegistersWithinWidths :
    WithinWidths (working [.copy [59] frameB])
    ∧ step (working [.copy [59] frameB]) = .next { working [.request] with fb := [(59, 2)] } :=
  ⟨copying_within_widths, rfl⟩

theorem witness_StepKeepsMemoryCanonical :
    Memory.wf full.fb ∧ step full = .next full := ⟨cellsB_canonical, rfl⟩

theorem witness_OnlySetframeWritesCells :
    (let s : State := working [.copy [59] (List.replicate 60 9)]
     nextHas (fun t => t.fb != s.fb) (step s) = true) := by decide

theorem witness_OnlySendAndInitDriveLines :
    nextHas (fun t => t.trace == [⟨.oe, true⟩]) (step (working [.line ⟨.oe, true⟩])) = true
    ∧ nextHas (fun t => t.trace.isEmpty && !t.clk)
        (step { State.reset with clk := true, program := [⟨1#1, 0#3, 0⟩] }) = true
    ∧ currentInstr (working [.run (.serial (serialCells 0xBBFE#16))]) = some (.send 0xBBFE#16)
    ∧ nextHas (fun t => t.trace == [⟨.oe, true⟩]) (step (working [.run (.serial (serialCells 0xBBFE#16))])) = true
    ∧ currentInstr (working [.run (.srword 0x01FF#16)]) = some (.wordR9 0#6)
    ∧ nextHas (fun t => t.trace == [⟨.oe, true⟩]) (step (working [.run (.srword 0x01FF#16)])) = true := by decide

theorem witness_RegistersWrittenByOwnersOnly_1 :
    nextHas (fun t => t.state == 1) (step { working [.dispatch] with framePending := true }) = true
    ∧ nextHas (fun t => t.lastAction == 7 && t.row == 0)
        (step { working [.dispatch] with state := 1, tau := 7, row := 7 }) = true
    ∧ nextHas (fun t => t.pass == 1) (step { working [.dispatch] with state := 3, tau := 500 }) = true
    ∧ nextHas (fun t => t.busy) (step { State.reset with tau := 2, program := [stepPort] }) = true := by decide

theorem witness_RegistersWrittenByOwnersOnly_2 :
    nextHas (fun t => t.framePending) (step (working [.request])) = true
    ∧ nextHas (fun t => t.ie) (step (handling [.leave])) = true
    ∧ nextHas (fun t => t.outcome == 0b10#2) (step (working [.run (.outcome 0b10#2)])) = true
    ∧ nextHas (fun t => t.linesDriven)
        (step { State.reset with linesDriven := false, program := [⟨1#1, 0#3, 0⟩] }) = true
    ∧ nextHas (fun t => t.isreadyResult) (step { State.reset with program := [⟨0#1, 0b010#3, 0⟩] }) = true
    ∧ nextHas (fun t => t.tau == 1) (step { State.reset with schedule := [.tick 0] }) = true := by decide

end Sys2Proof.Tests
end

/-! ### `ISREADY` (R91) -/

namespace Sys2Proof.Machine

open Sys2Proof

/-- In the normal context `ISREADY` writes its result, the port `ready`, and nothing else. -/
theorem exec_isready_normal {s : State} (normal : s.handler = none) :
    exec .isready s = .next { s with isreadyResult := ready s } := by
  have guard : ¬ s.handler.isSome = true := by simp [normal]
  exact if_neg guard

/-- Settles O14: the result written is `ready`, which is 1 iff `state` is Idle (`ready_iff`). -/
theorem isreadyReturnsIdle : Obligations.IsreadyReturnsIdle := by
  intro s normal
  exact ⟨{ s with isreadyResult := ready s }, exec_isready_normal normal, ready_iff s, rfl, ready_iff s⟩

end Sys2Proof.Machine

/-! ### The arms of `StepCore` (R101, R102, R108, R109) -/

namespace Sys2Proof.Machine

open Sys2Proof

/-- `STEP.IDLE` with a frame pending takes it and selects NewData. -/
theorem exec_stepIdle_pending {s : State} (pending : s.framePending = true) :
    exec .stepIdle s = .next { s with framePending := false, state := 1 } :=
  if_pos pending

/-- `STEP.IDLE` with no frame pending changes nothing. -/
theorem exec_stepIdle_waiting {s : State} (none_pending : s.framePending = false) :
    exec .stepIdle s = .next s :=
  if_neg (ne_true_of_eq_false none_pending)

/-- Settles O26: the two branches of R101, each the arm's whole next state. -/
theorem idleArmTakesPendingFrame : Obligations.IdleArmTakesPendingFrame :=
  ⟨fun _ => exec_stepIdle_pending, fun _ => exec_stepIdle_waiting⟩

/-- `STEP.NEWDATA` puts the cursor on (0, 0), stamps `Now()` and selects ComputeRow. -/
theorem exec_stepNewdata (s : State) :
    exec .stepNewdata s = .next { s with row := 0, pass := 0, lastAction := now s, state := 2 } := rfl

/-- Settles O27: `Now()` is real time modulo 2^TIME_W (R10). -/
theorem newdataArmResetsCursor : Obligations.NewdataArmResetsCursor := by
  intro s
  rw [exec_stepNewdata, now]

/-- `STEP.DISPLAYROW` changes nothing while the display interval runs. -/
theorem exec_stepDisplayrow_holding {s : State} (early : sinceLastAction s < 500) :
    exec .stepDisplayrow s = .next s := by
  have running : ¬ displayExpired s = true := by rw [displayExpired_iff]; omega
  exact if_neg running

/-- `STEP.DISPLAYROW` advances the cursor once the display interval has run out. -/
theorem exec_stepDisplayrow_expired {s : State} (late : 500 ≤ sinceLastAction s) (range : cursorInRange s = true) :
    exec .stepDisplayrow s = .next (advanceCursor s) :=
  (if_pos ((displayExpired_iff s).2 late)).trans (if_pos range)

/-- Settles O29: before the interval is over the arm holds; afterwards it is `Advance()`, whose three cases
(`advanceCursor_cases`) are the three clauses on the cursor. -/
theorem displayArmHoldsThenAdvances : Obligations.DisplayArmHoldsThenAdvances := by
  refine ⟨fun s early => exec_stepDisplayrow_holding early, fun s late row pass => ?_⟩
  have range : cursorInRange s = true := (cursorInRange_iff s).2 ⟨by omega, pass⟩
  refine ⟨advanceCursor s, exec_stepDisplayrow_expired late range, ?_⟩
  obtain ⟨more, e⟩ | ⟨last, inner, e⟩ | ⟨last, final, e⟩ := advanceCursor_cases s
  · rw [e]
    exact ⟨rfl, fun _ => ⟨rfl, rfl, rfl⟩, fun _ _ => by omega, fun _ _ => by omega⟩
  · rw [e]
    exact ⟨rfl, fun _ => by omega, fun _ _ => ⟨rfl, rfl, rfl⟩, fun _ _ => by omega⟩
  · rw [e]
    exact ⟨rfl, fun _ => by omega, fun _ _ => by omega, fun _ _ => ⟨rfl, rfl, rfl⟩⟩

end Sys2Proof.Machine

/-! ### The operands of a shift word (R104, R105, R106) -/

namespace Sys2Proof.Machine

open Sys2Proof

/-- Row select k of `RowBits(r)` is low iff k is r (R104). -/
theorem rowBits_getLsbD_eq_false (r : Nat) {k : Nat} (hk : k < 10) : (rowBits r).getLsbD k = false ↔ k = r := by
  have bit : (rowBits r).getLsbD k = false ↔ r ≤ k ∧ k - r = 0 := by simp [rowBits, hk]
  rw [bit]
  omega

/-- A bit of a fold by `|||` is set iff it is set in the start or in some term. -/
theorem getLsbD_foldl_or {α : Type} {w : Nat} (f : α → BitVec w) (l : List α) (m : BitVec w) (c : Nat) :
    (l.foldl (fun m a => m ||| f a) m).getLsbD c = (m.getLsbD c || l.any fun a => (f a).getLsbD c) := by
  induction l generalizing m with
  | nil => simp
  | cons a l ih => rw [List.foldl_cons, ih, BitVec.getLsbD_or, List.any_cons, Bool.or_assoc]

/-- The term of column i sets bit c iff i is c and the cell of that column exceeds the pass (R105). -/
theorem colBit_getLsbD (cells : List Nat) (p i : Nat) {c : Nat} (hc : c < 6) :
    (colBit cells p i).getLsbD c = true ↔ i = c ∧ ∃ v, cells[i]? = some v ∧ p < v := by
  rcases cell : cells[i]? with _ | v
  · simp [colBit, cell]
  · by_cases lit : p < v
    · have bit : (colBit cells p i).getLsbD c = true ↔ i ≤ c ∧ c - i = 0 := by simp [colBit, cell, lit, hc]
      simp only [bit, Option.some.injEq, exists_eq_left', lit, and_true]
      omega
    · simp [colBit, cell, lit]

/-- Column drive c of `ColMask` is high iff the cell of column c is strictly greater than the pass (R105). -/
theorem colMask_getLsbD {cells : List Nat} {c v : Nat} (p : Nat) (hc : c < 6) (cell : cells[c]? = some v) :
    (colMask cells p).getLsbD c = true ↔ p < v := by
  have column : (colMask cells p).getLsbD c = true ↔ ∃ i < 6, (colBit cells p i).getLsbD c = true := by
    simp [colMask, numCols, getLsbD_foldl_or]
  simp only [column, colBit_getLsbD cells p _ hc]
  constructor
  · rintro ⟨i, -, rfl, u, cell_u, lit⟩
    rw [cell] at cell_u
    cases cell_u
    exact lit
  · exact fun lit => ⟨c, hc, rfl, v, cell, lit⟩

/-- The passes below n in which a cell of intensity v exceeds the pass number: the first min(v, n). -/
theorem countP_lt_range (v n : Nat) : (List.range n).countP (fun p => decide (p < v)) = min v n := by
  induction n with
  | zero => simp
  | succ n ih =>
    rw [List.range_succ, List.countP_append, ih, List.countP_singleton]
    simp only [decide_eq_true_eq]
    split <;> omega

/-- The column mask shifted above the row bits is the two fields side by side (R106). -/
theorem shiftWord_eq_append (rowbits : RowField) (colmask : ColField) :
    shiftWord rowbits colmask = colmask ++ rowbits := by
  ext k hk
  rw [shiftWord, BitVec.getElem_append]
  by_cases low : k < 10
  · simp [low]
  · have inside : k - 10 < 6 := by omega
    simp [low, BitVec.getLsbD_of_ge rowbits k (by omega), BitVec.getLsbD_eq_getElem inside]

/-- Settles O30: the bits of `RowBits` and `ColMask`, the count of the passes below a cell's intensity, and `Word` as the
concatenation of its two fields. -/
theorem wordFormedFromRowAndCells : Obligations.WordFormedFromRowAndCells := by
  refine ⟨fun r _ hk => rowBits_getLsbD_eq_false r hk, fun _ p _ _ hc cell => colMask_getLsbD p hc cell,
    fun cells m c v hc cell => ?_, shiftWord_eq_append⟩
  have lit : (fun p => (colMask cells p).getLsbD c) = fun p => decide (p < v) :=
    funext fun p => Bool.eq_iff_iff.2 ((colMask_getLsbD p hc cell).trans decide_eq_true_iff.symm)
  rw [lit, countP_lt_range]

end Sys2Proof.Machine

/-! ### The encodings: frames on `frame_in`, shift words, serial frames, codes (R70 to R80, R84) -/

namespace Sys2Proof.Machine

open Sys2Proof

/-! #### A frame on `frame_in` (R75) -/

theorem cellOf_zero (w bits : Nat) : cellOf w bits 0 = bits % 2 ^ w := by simp [cellOf]

/-- Cell i + 1 is cell i of what stands above the first cell. -/
theorem cellOf_succ (w bits i : Nat) : cellOf w bits (i + 1) = cellOf w (bits / 2 ^ w) i := by
  rw [cellOf, cellOf, Nat.div_div_eq_div_mul, ← pow_add, Nat.mul_succ, Nat.add_comm w]

theorem cellOf_lt (w bits i : Nat) : cellOf w bits i < 2 ^ w := Nat.mod_lt _ (by positivity)

/-- The cells on `frame_in` read back from the frame packed there. -/
theorem cellOf_packFrame {w : Nat} {frame : List Nat} (fits : ∀ v ∈ frame, v < 2 ^ w) {i : Nat}
    (hi : i < frame.length) : cellOf w (packFrame w frame) i = frame[i] := by
  induction frame generalizing i with
  | nil => simp at hi
  | cons v vs ih =>
    obtain ⟨small, rest⟩ := List.forall_mem_cons.1 fits
    cases i with
    | zero => rw [cellOf_zero, packFrame, Nat.add_mul_mod_self_left, Nat.mod_eq_of_lt small, List.getElem_cons_zero]
    | succ i =>
      rw [cellOf_succ, packFrame, Nat.add_mul_div_left _ _ (by positivity), Nat.div_eq_of_lt small, Nat.zero_add,
        ih rest (Nat.lt_of_succ_lt_succ hi), List.getElem_cons_succ]

/-- Packing the lowest n cells of a port of n cells gives the port back. -/
theorem packFrame_cells (w n bits : Nat) (small : bits < 2 ^ (w * n)) :
    packFrame w ((List.range n).map (cellOf w bits)) = bits := by
  induction n generalizing bits with
  | zero =>
    have zero : bits = 0 := by simpa using small
    simp [packFrame, zero]
  | succ n ih =>
    have above : bits / 2 ^ w < 2 ^ (w * n) := by
      rw [Nat.div_lt_iff_lt_mul (by positivity), ← pow_add]
      exact small
    have shifted : cellOf w bits ∘ Nat.succ = cellOf w (bits / 2 ^ w) := funext (cellOf_succ w bits)
    rw [List.range_succ_eq_map, List.map_cons, List.map_map, shifted, packFrame, ih _ above, cellOf_zero]
    exact Nat.mod_add_div bits (2 ^ w)

@[simp] theorem length_unpackFrame (w bits : Nat) : (unpackFrame w bits).length = numCells := by simp [unpackFrame]

/-- Cell j of the frame on `frame_in`. -/
theorem unpackFrame_getElem? (w bits : Nat) {j : Nat} (hj : j < 60) :
    (unpackFrame w bits)[j]? = some (cellOf w bits j) := by
  simp [unpackFrame, numCells, hj]

theorem frameSized_iff (frame : List Nat) : frameSized frame = true ↔ frame.length = 60 := by
  simp [frameSized, numCells]

theorem frameFits_iff (cfg : Config) (frame : List Nat) :
    frameFits cfg frame = true ↔ ∀ v ∈ frame, v < 2 ^ cfg.intensityW := by simp [frameFits]

/-- A frame is well formed iff it is 60 values that fit a cell. -/
theorem wf_setframe_iff (cfg : Config) (frame : List Nat) :
    (Instr.setframe frame).wf cfg = true ↔ frame.length = 60 ∧ frameFits cfg frame = true := by
  rw [Instr.wf, Bool.and_eq_true, frameSized_iff]

theorem frameFits_unpackFrame (cfg : Config) (bits : Nat) : frameFits cfg (unpackFrame cfg.intensityW bits) = true := by
  rw [frameFits_iff]
  intro v hv
  obtain ⟨i, -, rfl⟩ := List.mem_map.1 hv
  exact cellOf_lt _ _ _

/-- The port `frame_in` carries a frame of 60 values that fit their cells without loss. -/
theorem unpackFrame_packFrame {w : Nat} {frame : List Nat} (size : frame.length = 60) (fits : ∀ v ∈ frame, v < 2 ^ w) :
    unpackFrame w (packFrame w frame) = frame := by
  refine List.ext_getElem (by simp [size, numCells]) fun i _ hi => ?_
  rw [← cellOf_packFrame fits hi]
  simp [unpackFrame]

/-- A `frame_in` of no more bits than its port is the packing of its cells. -/
theorem packFrame_unpackFrame {w bits : Nat} (small : bits < 2 ^ (w * numCells)) :
    packFrame w (unpackFrame w bits) = bits := packFrame_cells w numCells bits small

/-! #### A shift word (R71, R72, R84) -/

@[simp] theorem rowselOf_append (col : ColField) (row : RowField) : rowselOf (col ++ row) = row := by
  apply BitVec.eq_of_getLsbD_eq
  intro k hk
  rw [rowselOf, BitVec.getLsbD_extractLsb', decide_eq_true hk, Bool.true_and, Nat.zero_add, BitVec.getLsbD_append,
    if_pos hk]

@[simp] theorem colOf_append (col : ColField) (row : RowField) : colOf (col ++ row) = col := by
  apply BitVec.eq_of_getLsbD_eq
  intro k hk
  rw [colOf, BitVec.getLsbD_extractLsb', decide_eq_true hk, Bool.true_and, BitVec.getLsbD_append, if_neg (by omega),
    Nat.add_sub_cancel_left]

/-- Every word is its two fields side by side. -/
theorem colOf_append_rowselOf (w : ShiftWord) : colOf w ++ rowselOf w = w := by
  apply BitVec.eq_of_getLsbD_eq
  intro k hk
  rw [BitVec.getLsbD_append]
  split
  · next low => simp [rowselOf, low]
  · next high =>
    rw [colOf, BitVec.getLsbD_extractLsb', decide_eq_true (by omega : k - 10 < 6), Bool.true_and,
      Nat.add_sub_cancel' (by omega)]

theorem getLsbD_rowselOf (w : ShiftWord) {k : Nat} (hk : k < 10) : (rowselOf w).getLsbD k = w.getLsbD k := by
  simp [rowselOf, hk]

/-- The row field of a word is that of row r iff bit r is its one zero. -/
theorem rowselOf_eq_rowBits_iff (w : ShiftWord) {r : Nat} (hr : r < 10) :
    rowselOf w = rowBits r ↔ w.getLsbD r = false ∧ ∀ q, q < 10 → w.getLsbD q = false → q = r := by
  constructor
  · intro same
    have bit : ∀ q, q < 10 → (w.getLsbD q = false ↔ q = r) := fun q hq => by
      rw [← getLsbD_rowselOf w hq, same, rowBits_getLsbD_eq_false r hq]
    exact ⟨(bit r hr).2 rfl, fun q hq => (bit q hq).1⟩
  · rintro ⟨zero, only⟩
    apply BitVec.eq_of_getLsbD_eq
    intro q hq
    have bit : w.getLsbD q = false ↔ q = r := ⟨only q hq, fun e => e ▸ zero⟩
    have same := bit.trans (rowBits_getLsbD_eq_false r hq).symm
    rw [getLsbD_rowselOf w hq]
    exact Bool.eq_iff_iff.2 (by simpa using not_congr same)

theorem rowBits_injective {r q : Nat} (hr : r < 10) (same : rowBits r = rowBits q) : r = q :=
  (rowBits_getLsbD_eq_false q hr).1 (same ▸ (rowBits_getLsbD_eq_false r hr).2 rfl)

/-- Every row and mask has its word of the table. -/
theorem exists_shiftFields (r : Nat) (hr : r < 10) (col : ColField) : ∃ i : Instr, i.shiftFields = some (r, col) :=
  match r, hr with
  | 0, _ => ⟨.wordR0 col, rfl⟩
  | 1, _ => ⟨.wordR1 col, rfl⟩
  | 2, _ => ⟨.wordR2 col, rfl⟩
  | 3, _ => ⟨.wordR3 col, rfl⟩
  | 4, _ => ⟨.wordR4 col, rfl⟩
  | 5, _ => ⟨.wordR5 col, rfl⟩
  | 6, _ => ⟨.wordR6 col, rfl⟩
  | 7, _ => ⟨.wordR7 col, rfl⟩
  | 8, _ => ⟨.wordR8 col, rfl⟩
  | 9, _ => ⟨.wordR9 col, rfl⟩

/-- A shift word of the table is encoded as its two fields. -/
theorem encode_of_shiftFields {i : Instr} {r : Nat} {col : ColField} (cfg : Config)
    (h : i.shiftFields = some (r, col)) : encode cfg i = .srword (col ++ rowBits r) := by
  cases i <;> cases h <;> rfl

/-- The two fields of a shift word of the table decode to it. -/
theorem decodeSrword_of_shiftFields {i : Instr} {r : Nat} {col : ColField} (h : i.shiftFields = some (r, col)) :
    decodeSrword (col ++ rowBits r) = .ok i := by
  cases i <;> cases h <;> rw [decodeSrword, rowselOf_append, colOf_append] <;> rfl

/-- A word decodes iff its row field selects one row; then to the word of the table with that row and its mask. -/
theorem decodeSrword_ok_iff (w : ShiftWord) (i : Instr) :
    decodeSrword w = .ok i ↔ ∃ r < 10, rowselOf w = rowBits r ∧ i.shiftFields = some (r, colOf w) := by
  constructor
  · intro h
    rw [decodeSrword] at h
    split at h
    case h_1 e => cases h; exact ⟨0, by decide, BitVec.eq_of_toNat_eq e, rfl⟩
    case h_2 e => cases h; exact ⟨1, by decide, BitVec.eq_of_toNat_eq e, rfl⟩
    case h_3 e => cases h; exact ⟨2, by decide, BitVec.eq_of_toNat_eq e, rfl⟩
    case h_4 e => cases h; exact ⟨3, by decide, BitVec.eq_of_toNat_eq e, rfl⟩
    case h_5 e => cases h; exact ⟨4, by decide, BitVec.eq_of_toNat_eq e, rfl⟩
    case h_6 e => cases h; exact ⟨5, by decide, BitVec.eq_of_toNat_eq e, rfl⟩
    case h_7 e => cases h; exact ⟨6, by decide, BitVec.eq_of_toNat_eq e, rfl⟩
    case h_8 e => cases h; exact ⟨7, by decide, BitVec.eq_of_toNat_eq e, rfl⟩
    case h_9 e => cases h; exact ⟨8, by decide, BitVec.eq_of_toNat_eq e, rfl⟩
    case h_10 e => cases h; exact ⟨9, by decide, BitVec.eq_of_toNat_eq e, rfl⟩
    case h_11 => cases h
  · rintro ⟨r, -, row, fields⟩
    rw [← colOf_append_rowselOf w, row]
    exact decodeSrword_of_shiftFields fields

/-! #### Serial frames, state codes, host commands (R74, R76, R77) -/

/-- A serial frame that decodes is that of the word it decodes to. -/
theorem serialCells_of_decodeSerial {cells : BitVec 17} {i : Instr} (h : decodeSerial cells = .ok i) :
    ∃ v, i = .send v ∧ serialCells v = cells := by
  rw [decodeSerial] at h
  split at h
  · next latch =>
    cases h
    refine ⟨_, rfl, ?_⟩
    apply BitVec.eq_of_getLsbD_eq
    intro k hk
    rw [serialCells, BitVec.getLsbD_append]
    split
    · next low =>
      obtain rfl : k = 0 := by omega
      rw [BitVec.getLsbD_ofBool, decide_eq_true rfl, Bool.true_and, BitVec.getLsbD_extractLsb',
        decide_eq_true (by decide), Bool.true_and, latch]
    · next high =>
      rw [BitVec.getLsbD_extractLsb', decide_eq_true (by omega : k - 1 < 16), Bool.true_and,
        Nat.add_sub_cancel' (by omega)]
  · cases h

/-- Every state code from 4 on selects the corrupt arm (R76). -/
theorem decodeState_corrupt {code : Nat} (h : 4 ≤ code) : decodeState code = .stepCorrupt code := by
  obtain ⟨n, rfl⟩ := Nat.exists_eq_add_of_le' h
  rfl

/-- The state codes, by the arms they select. -/
theorem decodeState_cases (code : Nat) :
    (code = 0 ∧ decodeState code = .stepIdle) ∨ (code = 1 ∧ decodeState code = .stepNewdata)
    ∨ (code = 2 ∧ decodeState code = .stepComputerow) ∨ (code = 3 ∧ decodeState code = .stepDisplayrow)
    ∨ (4 ≤ code ∧ decodeState code = .stepCorrupt code) :=
  match code with
  | 0 => .inl ⟨rfl, rfl⟩
  | 1 => .inr (.inl ⟨rfl, rfl⟩)
  | 2 => .inr (.inr (.inl ⟨rfl, rfl⟩))
  | 3 => .inr (.inr (.inr (.inl ⟨rfl, rfl⟩)))
  | n + 4 => .inr (.inr (.inr (.inr ⟨Nat.le_add_left 4 n, rfl⟩)))

/-- The eight codes of the port `op`. -/
theorem op_cases (op : BitVec 3) :
    op = 0#3 ∨ op = 1#3 ∨ op = 2#3 ∨ op = 3#3 ∨ op = 4#3 ∨ op = 5#3 ∨ op = 6#3 ∨ op = 7#3 := by
  revert op; decide

/-- The four codes of the port `outcome`. -/
theorem outcomeCode_cases (code : BitVec 2) : code = 0#2 ∨ code = 1#2 ∨ code = 2#2 ∨ code = 3#2 := by
  revert code; decide

/-! #### The obligations on encodings -/

/-- Settles O2: the operands are the only content. A frame reads back cell by cell (`unpackFrame_packFrame`), a code
from 4 on selects the corrupt arm, a shift word is its two fields, a serial frame its word. -/
theorem decodeOfEncodeIsIdentity : Obligations.DecodeOfEncodeIsIdentity := by
  intro cfg i wf
  rcases fields : i.shiftFields with _ | ⟨r, col⟩
  · cases i with
    | setframe frame =>
      obtain ⟨size, fits⟩ := (wf_setframe_iff cfg frame).1 wf
      exact congrArg (fun f => Except.ok (Instr.setframe f))
        (unpackFrame_packFrame size ((frameFits_iff cfg frame).1 fits))
    | stepCorrupt code =>
      have bounds : 4 ≤ code ∧ code < 2 ^ cfg.stateW := by simpa [Instr.wf, corruptCode] using wf
      exact congrArg Except.ok (decodeState_corrupt bounds.1)
    | send v => exact decode_serialCells cfg v
    | wordR0 | wordR1 | wordR2 | wordR3 | wordR4 | wordR5 | wordR6 | wordR7 | wordR8 | wordR9 => cases fields
    | _ => rfl
  · rw [encode_of_shiftFields cfg fields]
    exact decodeSrword_of_shiftFields fields

/-- Only the code of `SETFRAME` reads `frame_in`. -/
theorem decodeHostcmd_frameIn (cfg : Config) {op : BitVec 3} (f : Nat) (h : op ≠ 1#3) :
    decodeHostcmd cfg op f = decodeHostcmd cfg op 0 := by
  rcases op_cases op with rfl | rfl | rfl | rfl | rfl | rfl | rfl | rfl
  · rfl
  · exact absurd rfl h
  all_goals rfl

/-- The host command that presents an instruction is its encoding, with zeros on `frame_in` where it has no operand. -/
theorem encode_decodeHostcmd (cfg : Config) {op : BitVec 3} {f : Nat} (small : f < 2 ^ (cfg.intensityW * numCells))
    (zeros : op = 1#3 ∨ f = 0) :
    encode cfg (decodeHostcmd cfg op f) = .hostcmd op f ∧ (decodeHostcmd cfg op f).wf cfg = true := by
  by_cases setframe : op = 1#3
  · subst setframe
    exact ⟨congrArg (Code.hostcmd 1#3) (packFrame_unpackFrame small),
      (wf_setframe_iff cfg _).2 ⟨length_unpackFrame _ _, frameFits_unpackFrame cfg f⟩⟩
  · obtain rfl := zeros.resolve_left setframe
    rcases op_cases op with rfl | rfl | rfl | rfl | rfl | rfl | rfl | rfl
    · exact ⟨rfl, rfl⟩
    · exact absurd rfl setframe
    all_goals exact ⟨rfl, rfl⟩

/-- A state code is the encoding of the arm it selects. -/
theorem encode_decodeState (cfg : Config) {code : Nat} (small : code < 2 ^ cfg.stateW) :
    encode cfg (decodeState code) = .state code ∧ (decodeState code).wf cfg = true := by
  rcases decodeState_cases code with ⟨rfl, e⟩ | ⟨rfl, e⟩ | ⟨rfl, e⟩ | ⟨rfl, e⟩ | ⟨large, e⟩ <;> rw [e]
  case inr.inr.inr.inr => exact ⟨rfl, by simp [Instr.wf, corruptCode, large, small]⟩
  all_goals exact ⟨rfl, rfl⟩

/-- A word that decodes is the encoding of the word of the table it decodes to. -/
theorem encode_of_decodeSrword (cfg : Config) {w : ShiftWord} {i : Instr} (h : decodeSrword w = .ok i) :
    encode cfg i = .srword w ∧ i.wf cfg = true := by
  obtain ⟨r, -, row, fields⟩ := (decodeSrword_ok_iff w i).1 h
  refine ⟨by rw [encode_of_shiftFields cfg fields, ← row, colOf_append_rowselOf], ?_⟩
  cases i <;> cases fields <;> rfl

/-- An outcome code is the encoding of the instruction it stands for. -/
theorem encode_decodeOutcome (cfg : Config) (code : BitVec 2) :
    encode cfg (decodeOutcome code) = .outcome code ∧ (decodeOutcome code).wf cfg = true := by
  rcases outcomeCode_cases code with rfl | rfl | rfl | rfl <;> exact ⟨rfl, rfl⟩

/-- Settles O3: format by format, what decodes is encoded back; and `frame_in` is read for op 001 only. -/
theorem encodeOfDecodeIsIdentity : Obligations.EncodeOfDecodeIsIdentity := by
  refine ⟨fun cfg c i fits dec zeros => ?_, fun cfg op f h => congrArg Except.ok (decodeHostcmd_frameIn cfg f h)⟩
  cases c with
  | hostcmd op f => cases dec; exact encode_decodeHostcmd cfg (of_decide_eq_true fits) (zeros op f rfl)
  | rst level =>
    rw [decode] at dec
    split at dec
    · next asserted => cases dec; exact ⟨congrArg Code.rst asserted.symm, rfl⟩
    · cases dec
  | state code => cases dec; exact encode_decodeState cfg (of_decide_eq_true fits)
  | srword w => exact encode_of_decodeSrword cfg dec
  | serial cells =>
    obtain ⟨v, rfl, same⟩ := serialCells_of_decodeSerial dec
    exact ⟨congrArg Code.serial same, rfl⟩
  | outcome code => cases dec; exact encode_decodeOutcome cfg code

/-- Settles O4: a word decodes iff its row field is that of some row (`decodeSrword_ok_iff`), which is that one bit of
it is zero (`rowselOf_eq_rowBits_iff`). -/
theorem shiftWordReadsBackIffOneRow : Obligations.ShiftWordReadsBackIffOneRow := by
  refine ⟨fun _ w => ⟨?_, ?_⟩, fun _ w i r dec hr zero => ?_, fun r q c d hr _ same => ?_⟩
  · rintro ⟨i, dec⟩
    obtain ⟨r, hr, row, -⟩ := (decodeSrword_ok_iff w i).1 dec
    exact ⟨r, hr, (rowselOf_eq_rowBits_iff w hr).1 row⟩
  · rintro ⟨r, hr, one⟩
    obtain ⟨i, fields⟩ := exists_shiftFields r hr (colOf w)
    exact ⟨i, (decodeSrword_ok_iff w i).2 ⟨r, hr, (rowselOf_eq_rowBits_iff w hr).2 one, fields⟩⟩
  · obtain ⟨q, hq, row, fields⟩ := (decodeSrword_ok_iff w i).1 dec
    obtain rfl : r = q := ((rowselOf_eq_rowBits_iff w hq).1 row).2 r hr zero
    exact ⟨fields, by rw [shiftWord_eq_append, ← row, colOf_append_rowselOf]⟩
  · rw [shiftWord_eq_append, shiftWord_eq_append] at same
    have rows : rowBits r = rowBits q := by simpa using congrArg rowselOf same
    exact ⟨rowBits_injective hr rows, by simpa using congrArg colOf same⟩

/-- Settles O1: literal words, each decoded by computation. -/
theorem writtenWordsDecode : Obligations.WrittenWordsDecode := by
  unfold Obligations.WrittenWordsDecode
  decide

/-- Settles O5: the defined codes by computation, all others by `decodeState_corrupt`. -/
theorem stateCodeSelectsArm : Obligations.StateCodeSelectsArm :=
  fun _ => ⟨rfl, rfl, rfl, rfl, fun _ large => congrArg Except.ok (decodeState_corrupt large)⟩

end Sys2Proof.Machine

/-! ### What each operation answers (R77, R90, R100 to R109, R130 to R132, R160) -/

namespace Sys2Proof.Machine

open Sys2Proof

/-! #### Work put in front of a context's list (R33) -/

theorem pushWork_of_normal {s : State} (ws : List Work) (normal : s.handler = none) :
    pushWork ws s = { s with normal := ws ++ s.normal } := by simp [pushWork, normal]

theorem pushWork_of_handler {s : State} {l : List Work} (ws : List Work) (handler : s.handler = some l) :
    pushWork ws s = { s with handler := some (ws ++ l) } := by simp [pushWork, handler]

/-! #### The host's operations (R77, R80, R90, R91) -/

theorem exec_setframe_handler {s : State} (f : List Nat) (handler : s.handler.isSome = true) :
    exec (.setframe f) s = .refused .wrongContext := if_pos handler

theorem exec_isready_handler {s : State} (handler : s.handler.isSome = true) :
    exec .isready s = .refused .wrongContext := if_pos handler

theorem exec_setframe_normal {s : State} (f : List Nat) (normal : s.handler = none) :
    exec (.setframe f) s =
      if !frameSized f then .refused .frameLength
      else if s.cfg.setframeAtomic then .next { s with fb := writeFrame s.fb 0 f, framePending := true }
      else copyOne (List.range numCells) f s := if_neg (by simp [normal])

/-- A frame of other than 60 values is refused. -/
theorem exec_setframe_size {s : State} {f : List Nat} (normal : s.handler = none) (size : f.length ≠ 60) :
    exec (.setframe f) s = .refused .frameLength := by
  have unsized : frameSized f = false := by rw [← Bool.not_eq_true, frameSized_iff]; exact size
  rw [exec_setframe_normal f normal, if_pos (by simp [unsized])]

/-- An atomic `SETFRAME` writes the frame whole and makes the request. -/
theorem exec_setframe_atomic {s : State} {f : List Nat} (normal : s.handler = none) (size : f.length = 60)
    (atomic : s.cfg.setframeAtomic = true) :
    exec (.setframe f) s = .next { s with fb := writeFrame s.fb 0 f, framePending := true } := by
  rw [exec_setframe_normal f normal, if_neg (by simp [(frameSized_iff f).2 size]), if_pos atomic]

theorem exec_setframe_piecewise {s : State} {f : List Nat} (normal : s.handler = none) (size : f.length = 60)
    (piecewise : s.cfg.setframeAtomic = false) : exec (.setframe f) s = copyOne (List.range 60) f s := by
  rw [exec_setframe_normal f normal, if_neg (by simp [(frameSized_iff f).2 size]), if_neg (by simp [piecewise])]
  rfl

/-- Taking one index out of the 60 leaves 59. -/
theorem range_eraseIdx_not_empty {k : Nat} (hk : k < 60) : ((List.range 60).eraseIdx k).isEmpty = false := by
  have len : ((List.range 60).eraseIdx k).length = 59 := by
    rw [List.length_eraseIdx_of_lt (by simpa using hk), List.length_range]
  rw [List.isEmpty_eq_false_iff, ← List.length_pos_iff, len]
  decide

/-- A `SETFRAME` that is not atomic writes the cell of the schedule's pick modulo 60 and leaves the other 59. -/
theorem exec_setframe_first {s : State} {f : List Nat} (normal : s.handler = none) (size : f.length = 60)
    (piecewise : s.cfg.setframeAtomic = false) :
    ∃ v, f[s.pick % 60]? = some v ∧ exec (.setframe f) s = .next (pushWork
      [.copy ((List.range 60).eraseIdx (s.pick % 60)) f] { s with fb := writeCell s.fb (s.pick % 60) v }) := by
  have small : s.pick % 60 < 60 := Nat.mod_lt _ (by decide)
  obtain ⟨i, v, -, picked, value, answer⟩ := copyOne_answers s (left := List.range 60) (frame := f)
    (by decide) (by simp [numCells]) size
  rw [List.length_range] at picked answer
  obtain rfl : s.pick % 60 = i := by simpa [small] using picked
  refine ⟨v, value, (exec_setframe_piecewise normal size piecewise).trans ?_⟩
  rw [answer, range_eraseIdx_not_empty small]
  rfl

/-! #### The guard (R131, R132) -/

theorem exec_step_handler {s : State} (handler : s.handler.isSome = true) : exec .step s = .refused .wrongContext :=
  if_pos handler

/-- `STEP` that is busy or too soon is Aborted. -/
theorem exec_step_aborted {s : State} (normal : s.handler = none) (closed : s.busy = true ∨ sinceLastAction s < 2) :
    exec .step s = .next (reportOutcome abortedCode (writeIe true (writeIe false s))) :=
  (if_neg (by simp [normal])).trans (if_pos (by rwa [Bool.or_eq_true, tooSoon_iff]))

/-- `STEP` that passes its entry check sets `busy`, writes `IE` and queues the dispatch and phase 3. -/
theorem exec_step_passed {s : State} (normal : s.handler = none) (free : s.busy = false)
    (late : 2 ≤ sinceLastAction s) :
    exec .step s = .next (pushWork [.dispatch, .phase3] (writeIe true { writeIe false s with busy := true })) :=
  (if_neg (by simp [normal])).trans
    (if_neg (by rw [Bool.or_eq_true, tooSoon_iff, not_or]; exact ⟨by simp [free], by omega⟩))

theorem exec_stepirq_normal {s : State} (normal : s.handler = none) : exec .stepirq s = .refused .wrongContext :=
  if_pos (by simp [normal])

theorem exec_stepirq_enabled {s : State} (handler : s.handler.isSome = true) (enabled : s.ie = true) :
    exec .stepirq s = .refused .interruptsEnabled :=
  (if_neg (by simpa [Option.isSome_iff_ne_none] using handler)).trans (if_pos enabled)

/-- `STEPIRQ` is Skipped while `busy` is 1. -/
theorem exec_stepirq_skipped {s : State} (handler : s.handler.isSome = true) (masked : s.ie = false)
    (busy : s.busy = true) : exec .stepirq s = .next (reportOutcome skippedCode s) :=
  (if_neg (by simpa [Option.isSome_iff_ne_none] using handler)).trans
    ((if_neg (by simp [masked])).trans (if_pos busy))

/-- `STEPIRQ` with `busy` at 0 queues the dispatch and the report of the outcome. -/
theorem exec_stepirq_passed {s : State} (handler : s.handler.isSome = true) (masked : s.ie = false)
    (free : s.busy = false) :
    exec .stepirq s = .next (pushWork [.dispatch, .run (.outcome executedCode)] s) :=
  (if_neg (by simpa [Option.isSome_iff_ne_none] using handler)).trans
    ((if_neg (by simp [masked])).trans (if_neg (by simp [free])))

/-! #### `INIT` (R160) -/

/-- The state `INIT` leaves: the block's registers and the lines at their reset values. -/
abbrev afterInit (s : State) : State := { s with
  state := 0, row := 0, pass := 0, lastAction := s.cfg.lastActionReset, busy := false
  framePending := false, data := s.cfg.lineReset.data, clk := s.cfg.lineReset.clk, oe := s.cfg.lineReset.oe
  linesDriven := true }

theorem exec_init_handler {s : State} (handler : s.handler.isSome = true) : exec .init s = .refused .wrongContext :=
  if_pos handler

theorem exec_init_inFlight {s : State} (normal : s.handler = none) (work : s.normal ≠ []) :
    exec .init s = .refused .initInFlight :=
  (if_neg (by simp [normal])).trans (if_pos (by simpa using work))

theorem exec_init_idle {s : State} (normal : s.handler = none) (work : s.normal = []) :
    exec .init s = .next (afterInit s) :=
  (if_neg (by simp [normal])).trans (if_neg (by simp [work]))

/-! #### The cursor arms outside their rules (R108, U4, U5) -/

theorem exec_stepComputerow_outside {s : State} (outside : cursorInRange s = false) :
    exec .stepComputerow s = .refused .cursorOutOfRange := if_neg (by simp [outside])

theorem exec_stepComputerow_unwritten {s : State} (range : cursorInRange s = true)
    (unwritten : readRow s.fb s.row = none) :
    exec .stepComputerow s = .fault .unwrittenCell := by
  refine (if_pos range).trans ?_
  simp only [unwritten]

theorem exec_stepDisplayrow_outside {s : State} (late : 500 ≤ sinceLastAction s) (outside : cursorInRange s = false) :
    exec .stepDisplayrow s = .refused .cursorOutOfRange :=
  (if_pos ((displayExpired_iff s).2 late)).trans (if_neg (by simp [outside]))

/-! #### Shift words (R71, R106, R120) -/

/-- A shift word of the table is handed to the transport unchanged. -/
theorem exec_of_shiftFields {i : Instr} {r : Nat} {col : ColField} (s : State) (h : i.shiftFields = some (r, col)) :
    exec i s = .next (beginSend (shiftWord (rowBits r) col) s) := by
  cases i <;> cases h <;> rfl

/-! #### What an instruction can do, said once -/

/-- `Advance()` writes `state` and the cursor only. -/
theorem advanceCursor_frame (s : State) :
    ∃ st r p, advanceCursor s = { s with state := st, row := r, pass := p } := by
  rcases advanceCursor_cases s with ⟨-, e⟩ | ⟨-, -, e⟩ | ⟨-, -, e⟩ <;> exact ⟨_, _, _, e⟩

/-- The next states an instruction can answer, with what it takes to answer them. -/
inductive ExecNext (s : State) : Instr → State → Prop where
  | nop : ExecNext s .nop s
  | setframeWhole (frame : List Nat) (normal : s.handler = none) (size : frame.length = 60)
      (atomic : s.cfg.setframeAtomic = true) :
      ExecNext s (.setframe frame) { s with fb := writeFrame s.fb 0 frame, framePending := true }
  | setframeFirst (frame : List Nat) (v : Nat) (normal : s.handler = none) (size : frame.length = 60)
      (piecewise : s.cfg.setframeAtomic = false) (value : frame[s.pick % 60]? = some v) :
      ExecNext s (.setframe frame) (pushWork [.copy ((List.range 60).eraseIdx (s.pick % 60)) frame]
        { s with fb := writeCell s.fb (s.pick % 60) v })
  | isready (normal : s.handler = none) : ExecNext s .isready { s with isreadyResult := ready s }
  | stepAborted (normal : s.handler = none) (closed : s.busy = true ∨ sinceLastAction s < 2) :
      ExecNext s .step (reportOutcome abortedCode (writeIe true (writeIe false s)))
  | stepPassed (normal : s.handler = none) (free : s.busy = false) (late : 2 ≤ sinceLastAction s) :
      ExecNext s .step (pushWork [.dispatch, .phase3] (writeIe true { writeIe false s with busy := true }))
  | stepirqSkipped (handler : s.handler.isSome = true) (busy : s.busy = true) :
      ExecNext s .stepirq (reportOutcome skippedCode s)
  | stepirqPassed (handler : s.handler.isSome = true) (free : s.busy = false) :
      ExecNext s .stepirq (pushWork [.dispatch, .run (.outcome executedCode)] s)
  | init (normal : s.handler = none) (work : s.normal = []) : ExecNext s .init (afterInit s)
  | idleTakes (pending : s.framePending = true) : ExecNext s .stepIdle { s with framePending := false, state := 1 }
  | idleWaits (waiting : s.framePending = false) : ExecNext s .stepIdle s
  | newdata : ExecNext s .stepNewdata { s with row := 0, pass := 0, lastAction := now s, state := 2 }
  | computerow (cells : List Nat) (range : cursorInRange s = true) (read : readRow s.fb s.row = some cells) :
      ExecNext s .stepComputerow
        (pushWork [.run (.serial (serialCells (shiftWord (rowBits s.row) (colMask cells s.pass)))), .shown] s)
  | displayHolds (early : sinceLastAction s < 500) : ExecNext s .stepDisplayrow s
  | displayAdvances (st r p : Nat) (late : 500 ≤ sinceLastAction s) (range : cursorInRange s = true)
      (advanced : advanceCursor s = { s with state := st, row := r, pass := p }) :
      ExecNext s .stepDisplayrow { s with state := st, row := r, pass := p }
  | corrupt (code : Nat) : ExecNext s (.stepCorrupt code) { s with state := 0 }
  | send (v : ShiftWord) : ExecNext s (.send v) (beginSend v s)
  | word (i : Instr) (r : Nat) (col : ColField) (fields : i.shiftFields = some (r, col)) :
      ExecNext s i (beginSend (shiftWord (rowBits r) col) s)
  | outcomeExecuted : ExecNext s .outcomeExecuted (reportOutcome executedCode s)
  | outcomeAborted : ExecNext s .outcomeAborted (reportOutcome abortedCode s)
  | outcomeSkipped : ExecNext s .outcomeSkipped (reportOutcome skippedCode s)

theorem exec_setframe_next {f : List Nat} {s t : State} (h : exec (.setframe f) s = .next t) :
    ExecNext s (.setframe f) t := by
  rcases context : s.handler with _ | ws
  · by_cases size : f.length = 60
    · rcases atomic : s.cfg.setframeAtomic
      · obtain ⟨v, value, answer⟩ := exec_setframe_first context size atomic
        cases answer.symm.trans h
        exact .setframeFirst f v context size atomic value
      · cases (exec_setframe_atomic context size atomic).symm.trans h
        exact .setframeWhole f context size atomic
    · cases (exec_setframe_size context size).symm.trans h
  · cases (exec_setframe_handler f (by simp [context])).symm.trans h

theorem exec_step_next {s t : State} (h : exec .step s = .next t) : ExecNext s .step t := by
  rcases context : s.handler with _ | ws
  · by_cases closed : s.busy = true ∨ sinceLastAction s < 2
    · cases (exec_step_aborted context closed).symm.trans h
      exact .stepAborted context closed
    · obtain ⟨free, late⟩ := not_or.1 closed
      have free : s.busy = false := by simpa using free
      have late : 2 ≤ sinceLastAction s := Nat.le_of_not_lt late
      cases (exec_step_passed context free late).symm.trans h
      exact .stepPassed context free late
  · cases (exec_step_handler (by simp [context])).symm.trans h

theorem exec_stepirq_next {s t : State} (h : exec .stepirq s = .next t) : ExecNext s .stepirq t := by
  rcases context : s.handler with _ | ws
  · cases (exec_stepirq_normal context).symm.trans h
  · have handler : s.handler.isSome = true := by simp [context]
    rcases masked : s.ie
    · rcases busy : s.busy
      · cases (exec_stepirq_passed handler masked busy).symm.trans h
        exact .stepirqPassed handler busy
      · cases (exec_stepirq_skipped handler masked busy).symm.trans h
        exact .stepirqSkipped handler busy
    · cases (exec_stepirq_enabled handler masked).symm.trans h

theorem exec_init_next {s t : State} (h : exec .init s = .next t) : ExecNext s .init t := by
  rcases context : s.handler with _ | ws
  · by_cases work : s.normal = []
    · cases (exec_init_idle context work).symm.trans h
      exact .init context work
    · cases (exec_init_inFlight context work).symm.trans h
  · cases (exec_init_handler (by simp [context])).symm.trans h

theorem exec_stepDisplayrow_next {s t : State} (h : exec .stepDisplayrow s = .next t) :
    ExecNext s .stepDisplayrow t := by
  by_cases late : 500 ≤ sinceLastAction s
  · rcases range : cursorInRange s
    · cases (exec_stepDisplayrow_outside late range).symm.trans h
    · obtain ⟨st, r, p, advanced⟩ := advanceCursor_frame s
      cases (exec_stepDisplayrow_expired late range).symm.trans h
      rw [advanced]
      exact .displayAdvances st r p late range advanced
  · cases (exec_stepDisplayrow_holding (Nat.lt_of_not_le late)).symm.trans h
    exact .displayHolds (Nat.lt_of_not_le late)

theorem exec_stepComputerow_next {s t : State} (h : exec .stepComputerow s = .next t) :
    ExecNext s .stepComputerow t := by
  rcases range : cursorInRange s
  · cases (exec_stepComputerow_outside range).symm.trans h
  · rcases written : readRow s.fb s.row with _ | cells
    · cases (exec_stepComputerow_unwritten range written).symm.trans h
    · cases (execStepComputerow_next range written).symm.trans h
      exact .computerow cells range written

/-- An instruction that answers a next state answers one of those of its rules. -/
theorem exec_next {i : Instr} {s t : State} (h : exec i s = .next t) : ExecNext s i t := by
  rcases fields : i.shiftFields with _ | ⟨r, col⟩
  · cases i with
    | nop => cases h; exact .nop
    | setframe f => exact exec_setframe_next h
    | isready =>
      rcases context : s.handler with _ | ws
      · cases (exec_isready_normal context).symm.trans h; exact .isready context
      · cases (exec_isready_handler (by simp [context])).symm.trans h
    | step => exact exec_step_next h
    | stepirq => exact exec_stepirq_next h
    | init => exact exec_init_next h
    | stepIdle =>
      rcases pending : s.framePending
      · cases (exec_stepIdle_waiting pending).symm.trans h; exact .idleWaits pending
      · cases (exec_stepIdle_pending pending).symm.trans h; exact .idleTakes pending
    | stepNewdata => cases h; exact .newdata
    | stepComputerow => exact exec_stepComputerow_next h
    | stepDisplayrow => exact exec_stepDisplayrow_next h
    | stepCorrupt code => cases h; exact .corrupt code
    | send v => cases h; exact .send v
    | outcomeExecuted => cases h; exact .outcomeExecuted
    | outcomeAborted => cases h; exact .outcomeAborted
    | outcomeSkipped => cases h; exact .outcomeSkipped
    | reservedOp5 | reservedOp6 | reservedOp7 | outcomeReserved => cases h
    | wordR0 | wordR1 | wordR2 | wordR3 | wordR4 | wordR5 | wordR6 | wordR7 | wordR8 | wordR9 => cases fields
  · cases (exec_of_shiftFields s fields).symm.trans h
    exact .word i r col fields

/-! #### The obligations on single operations -/

/-- Settles O9. -/
theorem nopChangesNothing : Obligations.NopChangesNothing := fun _ => rfl

/-- Settles O13. -/
theorem setframeRefusesOtherLengths : Obligations.SetframeRefusesOtherLengths := fun _ _ => exec_setframe_size

/-- Settles O15. -/
theorem initResetsBlock : Obligations.InitResetsBlock := fun _ => exec_init_idle

/-- Settles O17: each form is the first or second test of its operation. -/
theorem wrongContextRefused : Obligations.WrongContextRefused := by
  refine ⟨fun s ws f context => ?_, fun s => exec_stepirq_normal, fun s ws context => ?_, fun s => exec_init_inFlight⟩
  all_goals have handler : s.handler.isSome = true := by simp [context]
  · exact ⟨exec_setframe_handler f handler, exec_isready_handler handler, exec_step_handler handler,
      exec_init_handler handler⟩
  · exact exec_stepirq_enabled handler

/-- Settles O18. -/
theorem reservedCodesRefused : Obligations.ReservedCodesRefused := fun _ => ⟨rfl, rfl, rfl, rfl⟩

/-- Settles O24. -/
theorem outcomeCodesReported : Obligations.OutcomeCodesReported := fun _ => ⟨rfl, rfl, rfl⟩

/-- Settles O28. -/
theorem corruptArmHealsStateOnly : Obligations.CorruptArmHealsStateOnly := fun _ _ => rfl

/-- Settles O16: the record `State.reset`, field by field. -/
theorem resetStateAsTabulated : Obligations.ResetStateAsTabulated :=
  ⟨rfl, rfl, rfl, rfl, rfl, rfl, rfl, fun _ => rfl, rfl, rfl, rfl, rfl, rfl, rfl, rfl⟩

/-- `IE` written 0 and then 1. -/
theorem writeIe_twice (s : State) :
    writeIe true (writeIe false s) = { s with ie := true, ieTrace := s.ieTrace ++ [false, true] } := by
  simp [writeIe]

/-- Settles O20. -/
theorem stepPassesEntryCheck : Obligations.StepPassesEntryCheck := by
  intro s normal free late
  rw [exec_step_passed normal free late, pushWork_of_normal _ (by exact normal)]
  simp [writeIe]

/-- Settles O21: where the check passes `busy` becomes 1, which it is not in the Aborted state. -/
theorem stepAbortsWhenBusyOrTooSoon : Obligations.StepAbortsWhenBusyOrTooSoon := by
  intro s normal
  constructor
  · intro closed
    rw [exec_step_aborted normal closed, writeIe_twice]
    rfl
  · intro aborted
    by_contra opened
    obtain ⟨free, late⟩ := not_or.1 opened
    have free : s.busy = false := by simpa using free
    rw [exec_step_passed normal free (by omega)] at aborted
    have set : true = s.busy := congrArg State.busy (Host.Outcome.next.inj aborted)
    rw [free] at set
    cases set

/-- Settles O19: the three readings of the modular difference (`elapsed_int`, `elapsed_add`). -/
theorem elapsedIsModular : Obligations.ElapsedIsModular := by
  refine ⟨elapsed_int, fun w t u ht hu => ?_, fun s d => elapsed_add s.cfg.timeW s.tau d, fun _ => rfl, rfl⟩
  have modular := elapsed_int w t u
  generalize 2 ^ w = n at *
  split
  · next later =>
    rw [Int.emod_eq_of_lt (by omega) (by omega)] at modular
    omega
  · next wrapped =>
    rw [← Int.add_emod_right, Int.emod_eq_of_lt (by omega) (by omega)] at modular
    omega

/-- Settles O22: the elapsed time of d microseconds after a stamp is d modulo 2^TIME_W, so less than 2. -/
theorem stampHoldsOffStep : Obligations.StampHoldsOffStep := by
  intro s d normal stamp short
  have elapsed_d : sinceLastAction { s with tau := s.tau + d } = d % 2 ^ s.cfg.timeW := by
    simp only [sinceLastAction, stamp]
    exact elapsed_add s.cfg.timeW s.tau d
  have soon : sinceLastAction { s with tau := s.tau + d } < 2 := by
    rw [elapsed_d]
    exact Nat.lt_of_le_of_lt (Nat.mod_le _ _) short
  exact ⟨_, exec_step_aborted normal (.inr soon), rfl, rfl, rfl, rfl, rfl, rfl, rfl, rfl⟩

/-- Settles O23. -/
theorem stepirqSkipsOrDispatches : Obligations.StepirqSkipsOrDispatches := by
  refine ⟨fun s ws context masked busy => ?_, fun s ws context masked free => ?_⟩
  all_goals have handler : s.handler.isSome = true := by simp [context]
  · exact exec_stepirq_skipped handler masked busy
  · rw [exec_stepirq_passed handler masked free, pushWork_of_handler _ context]
    rfl

theorem readRow_none {m : List Cell} {r c : Nat} (hc : c < 6) (unwritten : readCell m (r * 6 + c) = none) :
    readRow m r = none := readCells_none hc unwritten

/-- Settles O32. -/
theorem cursorArmsStopOutsideTheirRules : Obligations.CursorArmsStopOutsideTheirRules := by
  have outside (s : State) (h : 10 ≤ s.row ∨ s.cfg.maxIntensity.val < s.pass) : cursorInRange s = false := by
    rw [← Bool.not_eq_true, cursorInRange_iff]
    omega
  refine ⟨fun s c row pass hc unwritten => ?_, fun s h => exec_stepComputerow_outside (outside s h),
    fun s h late => exec_stepDisplayrow_outside late (outside s h)⟩
  exact exec_stepComputerow_unwritten ((cursorInRange_iff s).2 ⟨by omega, pass⟩) (readRow_none hc unwritten)

/-! #### The word of `STEP.COMPUTEROW` (R103 to R106) -/

/-- The row bits of a word are bits 9:0. -/
theorem shiftWord_getLsbD_row (row : RowField) (col : ColField) {k : Nat} (hk : k < 10) :
    (shiftWord row col).getLsbD k = row.getLsbD k := by
  rw [shiftWord_eq_append, BitVec.getLsbD_append, if_pos hk]

/-- The column bits of a word are bits 15:10. -/
theorem shiftWord_getLsbD_col (row : RowField) (col : ColField) (c : Nat) :
    (shiftWord row col).getLsbD (10 + c) = col.getLsbD c := by
  rw [shiftWord_eq_append, BitVec.getLsbD_append, if_neg (by omega), Nat.add_sub_cancel_left]

/-- Six written cells of a row can be read, and read in order. -/
theorem readRow_written {m : List Cell} {r : Nat} (written : ∀ c, c < 6 → (readCell m (r * 6 + c)).isSome) :
    ∃ cells, readRow m r = some cells ∧ ∀ c, c < 6 → readCell m (r * 6 + c) = cells[c]? := by
  obtain ⟨cells, read⟩ := Option.isSome_iff_exists.1 (readCells_isSome written)
  exact ⟨cells, read, (readCells_some read).2⟩

/-- Settles O31: the word of the cells read, its bits by the rules of `RowBits` and `ColMask`. -/
theorem computeArmFormsWord : Obligations.ComputeArmFormsWord := by
  intro s row pass written
  obtain ⟨cells, read, at_column⟩ := readRow_written written
  have range : cursorInRange s = true := (cursorInRange_iff s).2 ⟨by omega, pass⟩
  have answer := execStepComputerow_next range read
  refine ⟨shiftWord (rowBits s.row) (colMask cells s.pass), fun k hk => ?_, fun c v hc cell => ?_,
    decode_serialCells _ _, fun normal => ?_, fun ws context => ?_⟩
  · rw [shiftWord_getLsbD_row _ _ hk, rowBits_getLsbD_eq_false _ hk]
  · rw [shiftWord_getLsbD_col, colMask_getLsbD s.pass hc ((at_column c hc).symm.trans cell)]
  · exact answer.trans (congrArg _ (pushWork_of_normal _ normal))
  · exact answer.trans (congrArg _ (pushWork_of_handler _ context))

/-- Settles O39: select k of the word is low iff k is the row, drive c is high iff the mask has it. -/
theorem litLedsOfWord : Obligations.LitLedsOfWord := by
  intro s r k c col hr hk hc enabled word
  have select : (!s.qr.getLsbD k) = true ↔ k = r := by
    rw [Bool.not_eq_true', word, shiftWord_getLsbD_row _ _ hk, rowBits_getLsbD_eq_false r hk]
  have drive : s.qr.getLsbD (10 + c) = col.getLsbD c := by rw [word, shiftWord_getLsbD_col]
  rw [lit, enabled, Bool.true_and, Bool.and_eq_true, select, drive]

/-! #### `SEND` begins (R120) -/

/-- `SEND` in the normal context. -/
theorem beginSend_of_normal {s : State} (v : ShiftWord) (normal : s.handler = none) :
    beginSend v s = { s with
      oe := s.cfg.oeBlankLevel
      trace := s.trace ++ (sendEvents s.cfg.oeBlankLevel v).take 1
      normal := ((sendEvents s.cfg.oeBlankLevel v).drop 1).map .line ++ s.normal } := by
  rw [beginSend, pushWork_of_normal _ (by exact normal)]
  simp [lineWrite, clockRises, sendEvents]

/-- `SEND` in the interrupt handler. -/
theorem beginSend_of_handler {s : State} {ws : List Work} (v : ShiftWord) (context : s.handler = some ws) :
    beginSend v s = { s with
      oe := s.cfg.oeBlankLevel
      trace := s.trace ++ (sendEvents s.cfg.oeBlankLevel v).take 1
      handler := some (((sendEvents s.cfg.oeBlankLevel v).drop 1).map .line ++ ws) } := by
  rw [beginSend, pushWork_of_handler _ (by exact context)]
  simp [lineWrite, clockRises, sendEvents]

/-- Settles O34. -/
theorem sendBeginsByBlanking : Obligations.SendBeginsByBlanking :=
  ⟨fun _ v normal => congrArg Host.Outcome.next (beginSend_of_normal v normal),
    fun _ v _ context => congrArg Host.Outcome.next (beginSend_of_handler v context)⟩

/-- Settles O35: the word of the table and the word sent are the same two fields. -/
theorem shiftWordSentUnchanged : Obligations.ShiftWordSentUnchanged := by
  intro s i r col fields
  exact ⟨shiftWord (rowBits r) col, by rw [encode_of_shiftFields s.cfg fields, shiftWord_eq_append],
    exec_of_shiftFields s fields, _, exec_of_shiftFields s fields, rfl⟩

/-! #### `SETFRAME` (R55, R90) -/

/-- Settles O11. -/
theorem setframeAtomicCopiesAll : Obligations.SetframeAtomicCopiesAll := by
  intro s f normal wf atomic
  obtain ⟨size, -⟩ := (wf_setframe_iff s.cfg f).1 wf
  refine ⟨_, exec_setframe_atomic normal size atomic, fun j hj => ?_, fun j hj => ?_, rfl⟩
  · rw [readCell_writeFrame, if_pos (by omega), Nat.sub_zero]
  · rw [readCell_writeFrame, if_neg (by omega)]

/-- What is left of a list without repetitions when the element at an index is taken out. -/
theorem mem_eraseIdx_iff {l : List Nat} (once : l.Nodup) {k i : Nat} (at_k : l[k]? = some i) (j : Nat) :
    j ∈ l.eraseIdx k ↔ j ∈ l ∧ j ≠ i := by
  obtain ⟨hk, rfl⟩ := List.getElem?_eq_some_iff.1 at_k
  rw [← List.Nodup.erase_getElem once, once.mem_erase_iff, and_comm]

/-- Settles O10. -/
theorem setframeWritesOneCellFirst : Obligations.SetframeWritesOneCellFirst := by
  intro s f normal wf piecewise
  obtain ⟨size, -⟩ := (wf_setframe_iff s.cfg f).1 wf
  obtain ⟨v, value, answer⟩ := exec_setframe_first normal size piecewise
  have small : s.pick % 60 < 60 := Nat.mod_lt _ (by decide)
  have picked : (List.range 60)[s.pick % 60]? = some (s.pick % 60) := by simp [small]
  refine ⟨_, (List.range 60).eraseIdx (s.pick % 60), answer, ?_, fun j other => ?_, List.nodup_range.eraseIdx _,
    fun j => ?_, ?_⟩
  · rw [pushWork_fb, readCell_writeCell_same, value]
  · rw [pushWork_fb, readCell_writeCell_other _ _ _ _ other]
  · rw [mem_eraseIdx_iff List.nodup_range picked, List.mem_range]
  · rw [pushWork_of_normal _ (by exact normal)]
    rfl

end Sys2Proof.Machine

/-! ### What one step does, and what it leaves alone (R7, R11, R20, R33, R126) -/

namespace Sys2Proof.Machine

open Sys2Proof

/-! #### The event a step makes -/

/-- The next states an event that fetches nothing can answer. -/
inductive EventNext (s : State) : Work → State → Prop where
  | copyEnded (frame : List Nat) : EventNext s (.copy [] frame) (pushWork [.request] s)
  | copyCell (left frame : List Nat) (i v : Nat) (picked : left[s.pick % left.length]? = some i)
      (bound : i < numCells) (value : frame[i]? = some v) :
      EventNext s (.copy left frame) (pushWork
        [if (left.eraseIdx (s.pick % left.length)).isEmpty then .request
         else .copy (left.eraseIdx (s.pick % left.length)) frame] { s with fb := writeCell s.fb i v })
  | request : EventNext s .request { s with framePending := true }
  | line (e : LineEvent) : EventNext s (.line e) (lineWrite e s)
  | shown : EventNext s .shown { s with lastAction := now s, state := 3 }
  | phase3 : EventNext s .phase3 (reportOutcome executedCode (writeIe true { writeIe false s with busy := false }))
  | leave : EventNext s .leave (returnInterrupt s)

/-- An event that fetches nothing and answers a next state answers one of those of its rules. -/
theorem makeEvent_next {w : Work} {r s t : State} (eventless : fetchCode w r = none) (h : makeEvent w s = .next t) :
    EventNext s w t := by
  cases w with
  | run code => cases eventless
  | dispatch => cases eventless
  | copy left frame =>
    rcases copyOne_next h with ⟨rfl, rfl⟩ | ⟨i, v, picked, bound, value, rfl⟩
    · exact .copyEnded frame
    · exact .copyCell left frame i v picked bound value
  | request => cases h; exact .request
  | line e => cases h; exact .line e
  | shown => cases h; exact .shown
  | phase3 => cases h; exact .phase3
  | leave => cases h; exact .leave

/-- All that a step can do, down to the rule of the instruction or event. -/
theorem step_cases {s t : State} (h : step s = .next t) :
    (∃ more rest, s.schedule = .tick more :: rest ∧ t = passTime more { s with schedule := rest })
    ∨ (∃ rest, s.schedule = .irq :: rest ∧ t = interruptArrives { s with schedule := rest })
    ∨ (∃ i, currentInstr s = some i ∧ ExecNext (fetched s) i t)
    ∨ (∃ w, currentWork s = some w ∧ EventNext (fetched s) w t) := by
  rcases step_next h with tick | irq | ⟨i, ci, x⟩ | ⟨w, cw, eventless, x⟩
  · exact .inl tick
  · exact .inr (.inl irq)
  · exact .inr (.inr (.inl ⟨i, ci, exec_next x⟩))
  · exact .inr (.inr (.inr ⟨w, cw, makeEvent_next eventless x⟩))

/-! #### A step as the instruction or event it runs -/

/-- The current context's next event, where it fetches an encoding. -/
theorem runNext_of_code {s u : State} {w : Work} {c : Code} (next : nextWork s = (w, u))
    (fetch : fetchCode w u = some c) : runNext s = runCode c u := by simp only [runNext, next, fetch]

/-- The current context's next event, where it fetches nothing. -/
theorem runNext_of_event {s u : State} {w : Work} (next : nextWork s = (w, u)) (eventless : fetchCode w u = none) :
    runNext s = makeEvent w u := by simp only [runNext, next, eventless]

/-- An encoding that decodes runs the instruction it decodes to. -/
theorem runCode_of_decode {s : State} {c : Code} {i : Instr} (dec : decode s.cfg c = .ok i) :
    runCode c s = exec i s := by
  simp only [runCode, dec]

/-- A step whose schedule is used up. -/
theorem step_of_empty {s : State} (sched : s.schedule = []) :
    step s = runNext { s with schedule := [], pick := 0 } := by
  cases s
  cases sched
  rfl

/-- A step in which the schedule lets the current context advance. -/
theorem step_of_advance {s : State} {k : Nat} {rest : List Choice} (sched : s.schedule = .advance k :: rest) :
    step s = runNext { s with schedule := rest, pick := k } := by simp only [step, sched]

theorem fetched_of_empty {s : State} (sched : s.schedule = []) :
    fetched s = (nextWork { s with schedule := [], pick := 0 }).2 := by
  cases s
  cases sched
  rfl

/-- A step in which the current context advances. -/
theorem step_of_currentWork {s : State} {w : Work} (h : currentWork s = some w) :
    ∃ l k, step s = runNext { s with schedule := l, pick := k }
      ∧ nextWork { s with schedule := l, pick := k } = (w, fetched s) := by
  have pair (l : List Choice) (k : Nat) (hw : (nextWork s).1 = w)
      (hf : (nextWork { s with schedule := l, pick := k }).2 = fetched s) :
      nextWork { s with schedule := l, pick := k } = (w, fetched s) :=
    Prod.ext ((nextWork_fst s l k).trans hw) hf
  rcases choice : s.schedule with _ | ⟨more | _ | k, rest⟩
  · exact ⟨[], 0, step_of_empty choice,
      pair [] 0 (by simpa [currentWork, choice] using h) (fetched_of_empty choice).symm⟩
  · simp [currentWork, choice] at h
  · simp [currentWork, choice] at h
  · exact ⟨rest, k, step_of_advance choice, pair rest k (by simpa [currentWork, choice] using h)
      (by simp only [fetched, choice])⟩

theorem fetched_state (s : State) : (fetched s).state = s.state := by
  obtain ⟨n, h, p, l, k, e⟩ := fetched_lists s
  rw [e]

theorem fetched_cfg (s : State) : (fetched s).cfg = s.cfg := by
  obtain ⟨n, h, p, l, k, e⟩ := fetched_lists s
  rw [e]

/-- A step that fetches an encoding runs it. -/
theorem step_of_currentCode {s : State} {c : Code} (h : currentCode s = some c) : step s = runCode c (fetched s) := by
  rcases work : currentWork s with _ | w
  · simp [currentCode, work] at h
  · obtain ⟨l, k, run, next⟩ := step_of_currentWork work
    have fetch : fetchCode w s = some c := by simpa [currentCode, work] using h
    rw [run]
    exact runNext_of_code next (by rw [fetchCode_congr w (fetched_state s), fetch])

/-- A step that fetches an instruction runs it. -/
theorem step_of_currentInstr {s : State} {i : Instr} (h : currentInstr s = some i) : step s = exec i (fetched s) := by
  rcases code : currentCode s with _ | c
  · simp [currentInstr, code] at h
  · rw [step_of_currentCode code]
    refine runCode_of_decode ?_
    rw [fetched_cfg]
    rcases dec : decode s.cfg c with why | j
    · simp [currentInstr, code, dec] at h
    · simpa [currentInstr, code, dec] using h

/-- Settles O6: the fetch by `step_of_currentInstr`, each place of fetching by the definition of `nextWork`. -/
theorem stepRunsDecodedInstruction : Obligations.StepRunsDecodedInstruction := by
  refine ⟨fun s i => step_of_currentInstr, fun s p ps sched handler normal program => ?_,
    fun s sched handler normal program => ?_, fun s ws sched handler normal => ?_, fun s ws sched handler => ?_,
    fun s c ws sched handler normal => ?_, fun s c ws sched handler => ?_, fun s k rest sched => ?_⟩
  · simp [currentCode, currentWork, fetchCode, fetched, nextWork, *]
  · refine ⟨?_, by simp [fetched, nextWork, *]⟩
    simp only [currentInstr, currentCode, currentWork, fetchCode, nextWork, sched, handler, normal, program]
    rfl
  · simp [currentCode, currentWork, fetchCode, fetched, nextWork, *]
  · simp [currentCode, currentWork, fetchCode, fetched, nextWork, *]
  · simp [currentCode, currentWork, fetchCode, fetched, nextWork, *]
  · simp [currentCode, currentWork, fetchCode, fetched, nextWork, *]
  · have event := nextWork_fst s [] s.pick
    have after := nextWork_snd s [] 0
    have after' := nextWork_snd s rest k
    constructor
    · simp only [currentCode, currentWork, sched]
      rw [show (nextWork { s with schedule := [] }).1 = (nextWork s).1 from event]
      exact (fetchCode_congr _ rfl).symm
    · simp only [fetched, sched]
      rw [after, after']

/-- Settles O7. -/
theorem tickAdvancesTimeOnly : Obligations.TickAdvancesTimeOnly := by
  intro s more rest sched
  refine ⟨?_, now_after s (more + 1)⟩
  simp only [step, sched]
  rfl

/-- A step in which the interrupt arrives. -/
theorem step_irq {s : State} {rest : List Choice} (sched : s.schedule = .irq :: rest) :
    step s = .next (interruptArrives { s with schedule := rest }) := by simp only [step, sched]

/-- An interrupt that arrives with `IE` = 1 outside the handler is taken. -/
theorem interruptArrives_taken {s : State} (enabled : s.ie = true) (handler : s.handler = none) :
    interruptArrives s = takeInterrupt s := if_pos (by simp [enabled, handler])

/-- An interrupt that arrives with `IE` = 0 is lost. -/
theorem interruptArrives_lost {s : State} (masked : s.ie = false) : interruptArrives s = s := if_neg (by simp [masked])

/-- Settles O8. -/
theorem interruptTakenWhereEnabled : Obligations.InterruptTakenWhereEnabled := by
  refine ⟨fun s rest sched enabled handler => ?_, fun s rest sched masked => ?_, fun s sched handler => ?_⟩
  · refine ⟨takeInterrupt { s with schedule := rest }, ?_, rfl, rfl⟩
    exact (step_irq sched).trans (congrArg Host.Outcome.next (interruptArrives_taken enabled handler))
  · exact (step_irq sched).trans (congrArg Host.Outcome.next (interruptArrives_lost masked))
  · simp [step, sched, runNext, nextWork, handler, fetchCode, makeEvent, returnInterrupt]

/-- Settles O50. -/
theorem stampAndPhase3Events : Obligations.StampAndPhase3Events := by
  intro s k rest ws choice
  have advances : step s = runNext { s with schedule := rest, pick := k } := by
    rcases choice with sched | ⟨sched, rfl, rfl⟩
    · exact step_of_advance sched
    · exact step_of_empty sched
  rw [advances]
  refine ⟨fun handler normal => ?_, fun handler => ?_, fun handler normal => ?_⟩
  · simp [runNext, nextWork, handler, normal, fetchCode, makeEvent, now]
  · simp [runNext, nextWork, handler, fetchCode, makeEvent, now]
  · simp [runNext, nextWork, handler, normal, fetchCode, makeEvent, writeIe, reportOutcome, executedCode]

/-- Settles O25: the three steps are the arrival, the `STEPIRQ`, Skipped while `busy` is 1, and the return. -/
theorem skippedStepirqLeavesNoTrace : Obligations.SkippedStepirqLeavesNoTrace := by
  intro s sched enabled handler busy choices
  have arrives : step s = .next (takeInterrupt { s with schedule := .advance s.pick :: .advance s.pick :: sched }) :=
    (step_irq choices).trans (congrArg Host.Outcome.next (interruptArrives_taken enabled handler))
  rw [run_next 2 arrives]
  refine (run_next 1 (t := { s with
    ie := false, handler := some [.leave], outcome := 0b10#2, schedule := .advance s.pick :: sched }) ?_).trans
    ((run_next 0 (t := { s with outcome := 0b10#2, schedule := sched }) ?_).trans rfl)
  · rw [step_of_currentInstr (i := .stepirq) rfl]
    exact exec_stepirq_skipped rfl rfl busy
  · simp [step, runNext, nextWork, fetchCode, makeEvent, returnInterrupt, enabled, handler]

/-! #### Who writes what -/

/-- The arrival of the interrupt writes `IE` and the handler's list only. -/
theorem interruptArrives_frame (s : State) : ∃ ie h, interruptArrives s = { s with ie := ie, handler := h } := by
  rcases interruptArrives_cases s with ⟨-, -, e⟩ | ⟨-, e⟩ <;> exact ⟨_, _, e⟩

/-- Settles O46: the frame buffer changes by writes below 60 only. -/
theorem stepKeepsMemoryCanonical : Obligations.StepKeepsMemoryCanonical := by
  intro s t wf h
  obtain ⟨n, hd, p, l, k, same⟩ := fetched_lists s
  rcases step_cases h with ⟨more, rest, -, rfl⟩ | ⟨rest, -, rfl⟩ | ⟨i, -, x⟩ | ⟨w, -, x⟩
  · exact wf
  · obtain ⟨ie, h, e⟩ := interruptArrives_frame { s with schedule := rest }
    rw [e]
    exact wf
  · rw [same] at x
    cases x with
    | setframeWhole f _ size => exact writeFrame_wf wf (by rw [size]; decide)
    | setframeFirst f v => exact writeCell_wf v wf (Nat.mod_lt _ (by decide))
    | _ => exact wf
  · rw [same] at x
    cases x with
    | copyCell left f i v _ bound => exact writeCell_wf v wf bound
    | _ => exact wf

/-- Settles O47. -/
theorem onlySetframeWritesCells : Obligations.OnlySetframeWritesCells := by
  intro s t h changed
  obtain ⟨n, hd, p, l, k, same⟩ := fetched_lists s
  rcases step_cases h with ⟨more, rest, -, rfl⟩ | ⟨rest, -, rfl⟩ | ⟨i, instr, x⟩ | ⟨w, work, x⟩
  · exact absurd rfl changed
  · obtain ⟨ie, h, e⟩ := interruptArrives_frame { s with schedule := rest }
    rw [e] at changed
    exact absurd rfl changed
  · rw [same] at x
    cases x with
    | setframeWhole f => exact .inl ⟨f, instr⟩
    | setframeFirst f => exact .inl ⟨f, instr⟩
    | _ => exact absurd rfl changed
  · rw [same] at x
    cases x with
    | copyCell left f => exact .inr ⟨left, f, work⟩
    | _ => exact absurd rfl changed

/-- Settles O48. -/
theorem onlySendAndInitDriveLines : Obligations.OnlySendAndInitDriveLines := by
  intro s t h
  obtain ⟨n, hd, p, l, k, same⟩ := fetched_lists s
  rcases step_cases h with ⟨more, rest, -, rfl⟩ | ⟨rest, -, rfl⟩ | ⟨i, instr, x⟩ | ⟨w, work, x⟩
  · exact .inl ⟨rfl, rfl, rfl, .inl ⟨rfl, rfl, rfl⟩⟩
  · obtain ⟨ie, h, e⟩ := interruptArrives_frame { s with schedule := rest }
    rw [e]
    exact .inl ⟨rfl, rfl, rfl, .inl ⟨rfl, rfl, rfl⟩⟩
  · rw [same] at x
    cases x with
    | init => exact .inl ⟨rfl, rfl, rfl, .inr instr⟩
    | send v => exact .inr ⟨_, rfl, .inr (.inl ⟨v, instr⟩)⟩
    | word i r col fields => exact .inr ⟨_, rfl, .inr (.inr ⟨i, r, col, instr, fields⟩)⟩
    | _ => exact .inl ⟨rfl, rfl, rfl, .inl ⟨rfl, rfl, rfl⟩⟩
  · rw [same] at x
    cases x with
    | line e => exact .inr ⟨e, rfl, .inl work⟩
    | _ => exact .inl ⟨rfl, rfl, rfl, .inl ⟨rfl, rfl, rfl⟩⟩

/-- Settles O49: in each rule of `step_cases` the fields written are those of the operation run. -/
theorem registersWrittenByOwnersOnly : Obligations.RegistersWrittenByOwnersOnly := by
  intro s t h
  obtain ⟨n, hd, p, l, k, same⟩ := fetched_lists s
  rcases step_cases h with ⟨more, rest, choice, rfl⟩ | ⟨rest, choice, rfl⟩ | ⟨i, instr, x⟩ | ⟨w, work, x⟩
  · simp [choice]
  · obtain ⟨ie, h, e⟩ := interruptArrives_frame { s with schedule := rest }
    simp [e, choice]
  · rw [same] at x
    cases x <;> simp [instr, beginSend]
  · rw [same] at x
    cases x <;> simp [work]

/-! #### No value above its width (R11) -/

/-- The events still to come, in either context. -/
abbrev pending (s : State) : List Work := s.normal ++ s.handler.getD []

theorem mem_pending_pushWork (ws : List Work) (s : State) (w : Work) :
    w ∈ pending (pushWork ws s) ↔ w ∈ ws ∨ w ∈ pending s := by
  rcases context : s.handler with _ | l
  · simp [pending, context]
  · simp [pending, context, or_left_comm]

/-- Taking an event off its list adds none. -/
theorem mem_pending_fetched {s : State} {w : Work} (h : w ∈ pending (fetched s)) : w ∈ pending s := by
  have sub (l : List Choice) (k : Nat) (hw : w ∈ pending (nextWork { s with schedule := l, pick := k }).2) :
      w ∈ pending s := by
    rcases nextWork_cases { s with schedule := l, pick := k } with
      ⟨v, vs, context, e⟩ | ⟨_, e⟩ | ⟨v, vs, context, work, e⟩ | ⟨_, _, _, _, _, e⟩ | ⟨_, _, _, e⟩ <;> rw [e] at hw
    · have mem : w ∈ s.normal ∨ w ∈ vs := by simpa [pending] using hw
      have context : s.handler = some (v :: vs) := context
      simpa [pending, context] using mem.imp_right Or.inr
    · exact hw
    · have mem : w ∈ vs ∨ w ∈ s.handler.getD [] := by simpa [pending] using hw
      have work : s.normal = v :: vs := work
      simpa [pending, work, or_assoc] using Or.inr mem
    · exact hw
    · exact hw
  rcases choice : s.schedule with _ | ⟨more | _ | k, rest⟩ <;> simp only [fetched, choice] at h
  · exact sub s.schedule 0 (by rw [choice]; exact h)
  · exact sub s.schedule 0 (by rw [choice]; exact h)
  · exact sub s.schedule 0 (by rw [choice]; exact h)
  · exact sub rest k h

/-- What widths that are legal hold. -/
theorem pow_widths {c : Config} (legal : c.widthsLegal = true) :
    8 ≤ 2 ^ c.stateW ∧ 16 ≤ 2 ^ c.rowW ∧ 16 ≤ 2 ^ c.passW ∧ c.lastActionReset < 2 ^ c.timeW := by
  obtain ⟨-, state, row, pass, -, stamp⟩ := (widthsLegal_iff c).1 legal
  have two : 0 < 2 := by decide
  exact ⟨Nat.pow_le_pow_right two state, Nat.pow_le_pow_right two row, Nat.pow_le_pow_right two pass, stamp⟩

/-- A next state holds no value above its width if each register keeps its value or takes one that fits. -/
theorem WithinWidths.of_changes {s t : State} (w : WithinWidths s) (cfg : t.cfg = s.cfg)
    (state : t.state = s.state ∨ t.state ≤ 3) (row : t.row = s.row ∨ t.row ≤ 9) (pass : t.pass = s.pass ∨ t.pass ≤ 8)
    (stamp : t.lastAction = s.lastAction ∨ t.lastAction < 2 ^ s.cfg.timeW)
    (cells : ∀ i v, readCell t.fb i = some v → readCell s.fb i = some v ∨ v < 2 ^ s.cfg.intensityW)
    (frames : ∀ left frame, .copy left frame ∈ pending t →
      .copy left frame ∈ pending s ∨ frameFits s.cfg frame = true) : WithinWidths t := by
  obtain ⟨stateW, rowW, passW, -⟩ := pow_widths w.legal
  have hstate := w.state
  have hrow := w.row
  have hpass := w.pass
  constructor <;> rw [cfg]
  · exact w.legal
  · omega
  · omega
  · omega
  · exact stamp.elim (fun e => e ▸ w.lastAction) id
  · exact fun i v h => (cells i v h).elim (w.cells i v) id
  · exact fun left frame h => (frames left frame h).elim (w.frames left frame) id

/-- The state an instruction runs in holds no value above its width. -/
theorem withinWidths_fetched {s : State} (w : WithinWidths s) : WithinWidths (fetched s) := by
  have sub := fun v => @mem_pending_fetched s v
  obtain ⟨n, hd, p, l, k, same⟩ := fetched_lists s
  rw [same] at sub ⊢
  exact w.of_changes rfl (.inl rfl) (.inl rfl) (.inl rfl) (.inl rfl) (fun _ _ => .inl)
    fun left frame h => .inl (sub _ h)

/-- A `SETFRAME` that decodes carries values that fit their cells. -/
theorem frameFits_of_decode {cfg : Config} {c : Code} {f : List Nat} (dec : decode cfg c = .ok (.setframe f)) :
    frameFits cfg f = true := by
  cases c with
  | hostcmd op frameIn =>
    rcases op_cases op with rfl | rfl | rfl | rfl | rfl | rfl | rfl | rfl <;> cases dec
    exact frameFits_unpackFrame cfg frameIn
  | rst level =>
    rw [decode] at dec
    split at dec <;> cases dec
  | state code =>
    rcases decodeState_cases code with ⟨-, e⟩ | ⟨-, e⟩ | ⟨-, e⟩ | ⟨-, e⟩ | ⟨-, e⟩ <;>
      rw [decode, e] at dec <;> cases dec
  | srword w =>
    obtain ⟨r, -, -, fields⟩ := (decodeSrword_ok_iff w _).1 dec
    cases fields
  | serial cells =>
    obtain ⟨v, e, -⟩ := serialCells_of_decodeSerial dec
    cases e
  | outcome code => rcases outcomeCode_cases code with rfl | rfl | rfl | rfl <;> cases dec

/-- The encoding that the instruction of a step decodes from. -/
theorem decode_of_currentInstr {s : State} {i : Instr} (h : currentInstr s = some i) :
    ∃ c, currentCode s = some c ∧ decode s.cfg c = .ok i := by
  rcases code : currentCode s with _ | c
  · simp [currentInstr, code] at h
  · rcases dec : decode s.cfg c with why | j
    · simp [currentInstr, code, dec] at h
    · exact ⟨c, rfl, by simpa [currentInstr, code, dec] using h⟩

/-- An event a step makes that is not an operation of the host was still to come. -/
theorem mem_pending_of_currentWork {s : State} {w : Work} (h : currentWork s = some w) (noRun : ∀ c, w ≠ .run c)
    (noLeave : w ≠ .leave) : w ∈ pending s := by
  obtain ⟨l, k, -, next⟩ := step_of_currentWork h
  have event : (nextWork s).1 = w := by rw [← nextWork_fst s l k, next]
  rcases nextWork_cases s with
    ⟨v, vs, context, e⟩ | ⟨_, e⟩ | ⟨v, vs, _, work, e⟩ | ⟨_, _, _, _, _, e⟩ | ⟨_, _, _, e⟩ <;>
    rw [e] at event <;> subst event
  · simp [pending, context]
  · exact absurd rfl noLeave
  · simp [pending, work]
  · exact absurd rfl (noRun _)
  · exact absurd rfl (noRun _)

/-- A cell write keeps the cells within their width. -/
theorem readCell_writeCell_fits {m : List Cell} {i j v u b : Nat} (h : readCell (writeCell m i v) j = some u)
    (small : v < b) : readCell m j = some u ∨ u < b := by
  rw [readCell_writeCell] at h
  split at h
  · cases h; exact .inr small
  · exact .inl h

/-- The value at an index of a frame that fits. -/
theorem lt_of_frameFits {cfg : Config} {f : List Nat} {i v : Nat} (fits : frameFits cfg f = true)
    (value : f[i]? = some v) : v < 2 ^ cfg.intensityW := (frameFits_iff cfg f).1 fits v (List.mem_of_getElem? value)

/-- An instruction stores no value above its width, given a frame that fits. -/
theorem ExecNext.keeps_widths {s t : State} {i : Instr} (w : WithinWidths s) (x : ExecNext s i t)
    (fits : ∀ f, i = .setframe f → frameFits s.cfg f = true) : WithinWidths t := by
  have same : ∀ i v, readCell s.fb i = some v → readCell s.fb i = some v ∨ v < 2 ^ s.cfg.intensityW := fun _ _ => .inl
  have kept : ∀ left frame, .copy left frame ∈ pending s →
      .copy left frame ∈ pending s ∨ frameFits s.cfg frame = true := fun _ _ => .inl
  have pushed (ws : List Work) (u : State) (hu : pending u = pending s)
      (no_copy : ∀ left frame, .copy left frame ∉ ws) : ∀ left frame, .copy left frame ∈ pending (pushWork ws u) →
        .copy left frame ∈ pending s ∨ frameFits s.cfg frame = true := by
    intro left frame h
    rw [mem_pending_pushWork, hu] at h
    exact .inl (h.resolve_left (no_copy left frame))
  cases x with
  | setframeWhole f normal size =>
    refine w.of_changes rfl (.inl rfl) (.inl rfl) (.inl rfl) (.inl rfl) (fun j v h => ?_) kept
    have h : readCell (writeFrame s.fb 0 f) j = some v := h
    rw [readCell_writeFrame] at h
    split at h
    · exact .inr (lt_of_frameFits (fits f rfl) h)
    · exact .inl h
  | setframeFirst f v normal size piecewise value =>
    refine w.of_changes rfl (.inl rfl) (.inl rfl) (.inl rfl) (.inl rfl)
      (fun j u h => readCell_writeCell_fits h (lt_of_frameFits (fits f rfl) value)) fun left frame h => ?_
    rcases (mem_pending_pushWork _ _ _).1 h with new | old
    · obtain ⟨-, rfl⟩ : left = _ ∧ frame = f := by simpa using new
      exact .inr (fits _ rfl)
    · exact .inl old
  | newdata =>
    exact w.of_changes rfl (.inr (Nat.le_succ 2)) (.inr (Nat.zero_le _)) (.inr (Nat.zero_le _)) (.inr (now_lt s))
      same kept
  | init =>
    exact w.of_changes rfl (.inr (Nat.zero_le _)) (.inr (Nat.zero_le _)) (.inr (Nat.zero_le _))
      (.inr (pow_widths w.legal).2.2.2) same kept
  | idleTakes | corrupt => exact w.of_changes rfl (.inr (by simp)) (.inl rfl) (.inl rfl) (.inl rfl) same kept
  | displayAdvances st r p late range advanced =>
    rw [← advanced]
    obtain ⟨row, pass⟩ := (cursorInRange_iff s).1 range
    have top : s.cfg.maxIntensity.val ≤ 8 := Nat.le_of_lt_succ s.cfg.maxIntensity.isLt
    rcases advanceCursor_cases s with ⟨_, e⟩ | ⟨_, _, e⟩ | ⟨_, _, e⟩ <;> rw [e]
    · exact w.of_changes rfl (.inr (by simp)) (.inl rfl) (.inr (by simp; omega)) (.inl rfl) same kept
    · exact w.of_changes rfl (.inr (by simp)) (.inr (by simp; omega)) (.inr (by simp)) (.inl rfl) same kept
    · exact w.of_changes rfl (.inr (by simp)) (.inr (by simp)) (.inr (by simp)) (.inl rfl) same kept
  | stepPassed | stepirqPassed | computerow | send | word =>
    exact w.of_changes rfl (.inl rfl) (.inl rfl) (.inl rfl) (.inl rfl) same (pushed _ _ rfl (by simp))
  | _ => exact w.of_changes rfl (.inl rfl) (.inl rfl) (.inl rfl) (.inl rfl) same kept

/-- An event stores no value above its width, given a frame that fits. -/
theorem EventNext.keeps_widths {s t : State} {v : Work} (w : WithinWidths s) (x : EventNext s v t)
    (fits : ∀ left f, v = .copy left f → frameFits s.cfg f = true) : WithinWidths t := by
  have same : ∀ i v, readCell s.fb i = some v → readCell s.fb i = some v ∨ v < 2 ^ s.cfg.intensityW := fun _ _ => .inl
  have kept : ∀ left frame, .copy left frame ∈ pending s →
      .copy left frame ∈ pending s ∨ frameFits s.cfg frame = true := fun _ _ => .inl
  cases x with
  | copyEnded f =>
    refine w.of_changes rfl (.inl rfl) (.inl rfl) (.inl rfl) (.inl rfl) same fun left frame h => .inl ?_
    exact ((mem_pending_pushWork _ _ _).1 h).resolve_left (by simp)
  | copyCell left f i v picked bound value =>
    refine w.of_changes rfl (.inl rfl) (.inl rfl) (.inl rfl) (.inl rfl)
      (fun j u h => readCell_writeCell_fits h (lt_of_frameFits (fits left f rfl) value)) fun left' frame h => ?_
    rcases (mem_pending_pushWork _ _ _).1 h with new | old
    · rw [List.mem_singleton] at new
      split at new <;> cases new
      exact .inr (fits left _ rfl)
    · exact .inl old
  | shown => exact w.of_changes rfl (.inr (by simp)) (.inl rfl) (.inl rfl) (.inr (now_lt s)) same kept
  | leave =>
    refine w.of_changes rfl (.inl rfl) (.inl rfl) (.inl rfl) (.inl rfl) same fun left frame h => .inl ?_
    have old : .copy left frame ∈ s.normal := by simpa [pending] using h
    exact List.mem_append_left _ old
  | _ => exact w.of_changes rfl (.inl rfl) (.inl rfl) (.inl rfl) (.inl rfl) same kept

/-- Settles O53: the frame of a `SETFRAME` fits because it was decoded, that of a copy because it was pending. -/
theorem stepKeepsRegistersWithinWidths : Obligations.StepKeepsRegistersWithinWidths := by
  intro s t w h
  rcases step_cases h with ⟨more, rest, -, rfl⟩ | ⟨rest, -, rfl⟩ | ⟨i, instr, x⟩ | ⟨v, work, x⟩
  · exact w.of_changes rfl (.inl rfl) (.inl rfl) (.inl rfl) (.inl rfl) (fun _ _ => .inl) fun _ _ => .inl
  · rcases interruptArrives_cases { s with schedule := rest } with ⟨-, -, e⟩ | ⟨-, e⟩ <;> rw [e]
    · refine w.of_changes rfl (.inl rfl) (.inl rfl) (.inl rfl) (.inl rfl) (fun _ _ => .inl) fun left frame h => .inl ?_
      have old : .copy left frame ∈ s.normal := by simpa [pending] using h
      exact List.mem_append_left _ old
    · exact w.of_changes rfl (.inl rfl) (.inl rfl) (.inl rfl) (.inl rfl) (fun _ _ => .inl) fun _ _ => .inl
  · refine x.keeps_widths (withinWidths_fetched w) fun f setframe => ?_
    obtain ⟨c, -, dec⟩ := decode_of_currentInstr instr
    rw [fetched_cfg]
    exact frameFits_of_decode (setframe ▸ dec)
  · refine x.keeps_widths (withinWidths_fetched w) fun left f copy => ?_
    subst copy
    rw [fetched_cfg]
    exact w.frames left f (mem_pending_of_currentWork work (fun _ => nofun) nofun)

/-- Settles O52. -/
theorem resetRegistersWithinWidths : Obligations.ResetRegistersWithinWidths :=
  ⟨⟨by decide, by decide, by decide, by decide, by decide, nofun, nofun⟩, rfl, rfl, rfl, rfl, rfl⟩

end Sys2Proof.Machine

/-! ### The lines, the external register and the LEDs (R120 to R125, R150, R151, R161) -/

namespace Sys2Proof.Machine

open Sys2Proof

/-! #### The events of a `SEND` and the word they leave -/

/-- Settles O33: the 16 data cells one by one, the rest by computation. -/
theorem sendTraceIsTheTable : Obligations.SendTraceIsTheTable := by
  intro blank v
  refine ⟨rfl, rfl, fun k hk => ?_, rfl, rfl, rfl⟩
  interval_cases k <;> exact ⟨rfl, rfl, rfl⟩

/-- A data cell shifts its bit into the register (R120 step 2, R150). -/
theorem lineWrites_dataCell (bit : Bool) (s : State) :
    lineWrites (dataCellEvents bit) s = { s with
      data := bit, clk := true, sr := (s.sr <<< 1) ||| (BitVec.ofBool bit).setWidth 16, qr := s.sr
      trace := s.trace ++ dataCellEvents bit } := by
  simp [dataCellEvents, lineWrite, clockRises]

/-- The first `n` data cells of `SEND(v)`. -/
def dataCells (v : ShiftWord) (n : Nat) : List LineEvent :=
  (List.range n).flatMap fun k => dataCellEvents (v.getLsbD (15 - k))

theorem dataCells_succ (v : ShiftWord) (n : Nat) :
    dataCells v (n + 1) = dataCells v n ++ dataCellEvents (v.getLsbD (15 - n)) := by
  simp [dataCells, List.range_succ]

theorem sendEvents_eq (blank : Bool) (v : ShiftWord) :
    sendEvents blank v = ⟨.oe, blank⟩ :: (dataCells v 16 ++ [⟨.clk, false⟩, ⟨.clk, true⟩, ⟨.oe, !blank⟩]) := rfl

/-- What `SR` holds after the `n` top bits of `v` are shifted into `old`. -/
def shiftedIn (old v : ShiftWord) (n : Nat) : ShiftWord := (old <<< n) ||| (v >>> (16 - n))

theorem shiftedIn_zero (old v : ShiftWord) : shiftedIn old v 0 = old := by
  apply BitVec.eq_of_getLsbD_eq
  intro i hi
  simp [shiftedIn]

theorem shiftedIn_all (old v : ShiftWord) : shiftedIn old v 16 = v := by simp [shiftedIn]

theorem shiftedIn_succ (old v : ShiftWord) {n : Nat} (hn : n < 16) :
    (shiftedIn old v n <<< 1) ||| (BitVec.ofBool (v.getLsbD (15 - n))).setWidth 16 = shiftedIn old v (n + 1) := by
  apply BitVec.eq_of_getLsbD_eq
  intro i hi
  rcases i with _ | i
  · simp [shiftedIn, show 16 - (n + 1) = 15 - n by omega]
  · have offset : 15 - n + (i + 1) = 16 - n + i := by omega
    simp [shiftedIn, hi, offset]

/-- The data cells shift the top bits of the word into the register, whatever it held. -/
theorem lineWrites_dataCells (v : ShiftWord) (s : State) {n : Nat} (hn : n < 16) :
    ∃ q, lineWrites (dataCells v (n + 1)) s = { s with
      data := v.getLsbD (15 - n), clk := true, sr := shiftedIn s.sr v (n + 1), qr := q
      trace := s.trace ++ dataCells v (n + 1) } := by
  induction n with
  | zero =>
    have first := shiftedIn_succ s.sr v hn
    rw [shiftedIn_zero] at first
    exact ⟨_, by rw [dataCells_succ, lineWrites_append, ← first]; exact lineWrites_dataCell _ _⟩
  | succ n ih =>
    obtain ⟨q, shifted⟩ := ih (by omega)
    refine ⟨shiftedIn s.sr v (n + 1), ?_⟩
    rw [dataCells_succ, lineWrites_append, shifted, lineWrites_dataCell]
    simp only [shiftedIn_succ s.sr v hn, List.append_assoc]

/-- Settles O36: the data cells leave the word in the shift stage, the latch cell puts it on the outputs. -/
theorem sendLeavesWordOnOutputs : Obligations.SendLeavesWordOnOutputs := by
  intro s v
  obtain ⟨q, shifted⟩ := lineWrites_dataCells v (lineWrite ⟨.oe, s.cfg.oeBlankLevel⟩ s) (n := 15) (by decide)
  rw [sendEvents_eq, lineWrites_cons, lineWrites_append, shifted, shiftedIn_all]
  simp [lineWrite, clockRises]

/-! #### Outside a `SEND` (R122, R126) -/

theorem sendInFlight_iff (s : State) : sendInFlight s = true ↔ ∃ w ∈ pending s, w.isLine = true := by
  simp [sendInFlight, pending, or_and_right, exists_or]

/-- A step that makes a line event of a `SEND` has one in flight. -/
theorem sendInFlight_of_currentWork {s : State} {e : LineEvent} (work : currentWork s = some (.line e)) :
    sendInFlight s = true :=
  (sendInFlight_iff s).2 ⟨_, mem_pending_of_currentWork work (fun _ => nofun) nofun, rfl⟩

/-- Once a `SEND` has begun it is in flight. -/
theorem sendInFlight_beginSend (v : ShiftWord) (s : State) : sendInFlight (beginSend v s) = true :=
  (sendInFlight_iff _).2 ⟨.line ⟨.clk, false⟩,
    (mem_pending_pushWork _ _ _).2 (.inl (List.mem_map_of_mem List.mem_cons_self)), rfl⟩

/-- Outside a `SEND` a step that begins none and runs no `INIT` leaves the lines and the external register alone. -/
theorem lines_kept_outside_send {s t : State} (before : sendInFlight s = false) (h : step s = .next t)
    (after : sendInFlight t = false) (no_init : currentInstr s ≠ some .init) :
    t.data = s.data ∧ t.clk = s.clk ∧ t.oe = s.oe ∧ t.sr = s.sr ∧ t.qr = s.qr := by
  have no_send {v : ShiftWord} (sends : step s = .next (beginSend v (fetched s))) : False := by
    cases sends.symm.trans h
    rw [sendInFlight_beginSend] at after
    cases after
  rcases onlySendAndInitDriveLines s t h with
    ⟨-, sr, qr, lines⟩ | ⟨e, -, work | ⟨v, instr⟩ | ⟨i, r, col, instr, fields⟩⟩
  · obtain ⟨data, clk, oe⟩ := lines.resolve_right no_init
    exact ⟨data, clk, oe, sr, qr⟩
  · rw [sendInFlight_of_currentWork work] at before
    cases before
  · exact (no_send (step_of_currentInstr instr)).elim
  · exact (no_send ((step_of_currentInstr instr).trans (exec_of_shiftFields _ fields))).elim

/-! #### What the pins and LEDs show (R150, R151, R161) -/

theorem outputPin_of_enabled {s : State} (enabled : outputsEnabled s = true) (k : Nat) :
    outputPin s k = some (s.qr.getLsbD k) := if_pos enabled

/-- While the outputs are enabled the pins and the LEDs depend on the output stage only. -/
theorem shown_congr {s t : State} (before : outputsEnabled s = true) (after : outputsEnabled t = true)
    (qr : t.qr = s.qr) : (∀ k, outputPin t k = outputPin s k) ∧ ∀ r c, lit t r c = lit s r c :=
  ⟨fun k => by rw [outputPin_of_enabled after, outputPin_of_enabled before, qr],
    fun r c => by rw [lit, lit, after, before, qr]⟩

/-- `INIT` leaves the outputs enabled where its level of `OE` does not blank. -/
theorem outputsEnabled_afterInit {s : State} (unblanked : s.cfg.lineReset.oe ≠ s.cfg.oeBlankLevel) :
    outputsEnabled (afterInit s) = true := bne_iff_ne.2 unblanked

/-- A step that runs `INIT` leaves the state of its rule. -/
theorem step_init_next {s t : State} (instr : currentInstr s = some .init) (h : step s = .next t) :
    t = afterInit (fetched s) := by
  cases exec_next ((step_of_currentInstr instr).symm.trans h) with
  | init => rfl
  | word _ _ _ fields => cases fields

/-- Settles O54: outside a `SEND` only `INIT` drives the lines, and it leaves the outputs enabled; nothing there moves
the output stage. -/
theorem powerUpContentsShownUntilFirstSend : Obligations.PowerUpContentsShownUntilFirstSend := by
  refine ⟨⟨rfl, fun r c => rfl⟩, fun s normal work unblanked => ?_, fun s t unblanked enabled before h after => ?_⟩
  · exact ⟨_, exec_init_idle normal work, outputPin_of_enabled (outputsEnabled_afterInit unblanked)⟩
  · by_cases init : currentInstr s = some .init
    · obtain ⟨n, hd, p, l, k, same⟩ := fetched_lists s
      have next := step_init_next init h
      rw [same] at next
      subst next
      exact shown_congr enabled (outputsEnabled_afterInit unblanked) rfl
    · obtain ⟨-, -, oe, -, qr⟩ := lines_kept_outside_send before h after init
      obtain ⟨-, -, -, -, -, -, -, -, -, -, cfg⟩ := registersWrittenByOwnersOnly s t h
      exact shown_congr enabled (by rw [outputsEnabled, oe, cfg]; exact enabled) qr

/-- Settles O38: during a `SEND` the line `OE` stands at the level that blanks. -/
theorem nothingLitDuringSend : Obligations.NothingLitDuringSend := by
  intro s r c coherent inFlight
  have blank : s.oe = s.cfg.oeBlankLevel := coherent.blanked.2 inFlight
  have disabled : outputsEnabled s = false := by simp [outputsEnabled, blank]
  rw [lit, disabled, Bool.false_and, Bool.false_and]

/-- Settles O43. -/
theorem resetIsCoherent : Obligations.ResetIsCoherent where
  memory := by decide
  code := by decide
  cursor := by decide
  idle := fun _ => ⟨rfl, rfl⟩
  frame := by decide
  normalShape := .free rfl rfl
  handlerShape := .absent rfl
  enable := rfl
  blanked := by decide
  resting := fun _ => .inr ⟨rfl, rfl, rfl⟩
  unblankedReset := by decide

end Sys2Proof.Machine

/-! ### Every step keeps the invariants of reachable states (R34, R122, R123, R133, R140) -/

namespace Sys2Proof.Machine

open Sys2Proof

/-! #### The list of the context that runs -/

/-- What the context that runs has still to do: the handler's list where there is one. -/
abbrev contextWork (s : State) : List Work := s.handler.getD s.normal

/-- The state with that list replaced. -/
abbrev withContext (ws : List Work) (s : State) : State :=
  { s with normal := if s.handler.isSome then s.normal else ws, handler := s.handler.map fun _ => ws }

theorem withContext_of_normal {s : State} (ws : List Work) (normal : s.handler = none) :
    withContext ws s = { s with normal := ws } := by simp [withContext, normal]

theorem withContext_of_handler {s : State} {l : List Work} (ws : List Work) (handler : s.handler = some l) :
    withContext ws s = { s with handler := some ws } := by simp [withContext, handler]

theorem nextWork_of_contextWork {s : State} {w : Work} {ws : List Work} (h : contextWork s = w :: ws) :
    nextWork s = (w, withContext ws s) := by
  rcases context : s.handler with _ | l
  · have normal : s.normal = w :: ws := by simpa [contextWork, context] using h
    rw [withContext_of_normal ws context]
    simp only [nextWork, context, normal]
  · obtain rfl : l = w :: ws := by simpa [contextWork, context] using h
    rw [withContext_of_handler ws context]
    simp only [nextWork, context]

theorem pushWork_withContext (a ws : List Work) (s : State) :
    pushWork a (withContext ws s) = withContext (a ++ ws) s := by
  rcases context : s.handler with _ | l
  · rw [withContext_of_normal ws context, withContext_of_normal _ context]
    exact pushWork_of_normal a context
  · rw [withContext_of_handler ws context, withContext_of_handler _ context]
    exact pushWork_of_handler a rfl

/-! #### The invariant in parts -/

/-- R34(a) to (d): the registers and the frame buffer. -/
structure RegistersCoherent (s : State) : Prop where
  memory : Memory.wf s.fb
  code : s.state ≤ 3
  cursor : cursorInRange s = true
  idle : s.state = 0 → s.row = 0 ∧ s.pass = 0
  frame : s.framePending = true ∨ s.state ≠ 0 → frameWritten s.fb

/-- R34(f): the lines, given whether a `SEND` is in flight. -/
structure LinesCoherent (s : State) (sending : Bool) : Prop where
  blanked : s.oe = s.cfg.oeBlankLevel ↔ sending = true
  resting : sending = false → linesAtRest s ∨ linesAtReset s
  unblankedReset : s.cfg.lineReset.oe ≠ s.cfg.oeBlankLevel

/-- The invariant of a `StepCore` of which `core` is left, in whichever context it runs. -/
structure CoreCoherent (s : State) (core : List Work) : Prop where
  regs : RegistersCoherent s
  lines : LinesCoherent s (core.any Work.isLine)
  work : CoreWork s core
  computing : .shown ∈ core → s.state = 2

/-- Two states that agree on the lines, the outputs and the parameters. -/
structure SameLines (s t : State) : Prop where
  cfg : t.cfg = s.cfg := by rfl
  data : t.data = s.data := by rfl
  clk : t.clk = s.clk := by rfl
  oe : t.oe = s.oe := by rfl
  qr : t.qr = s.qr := by rfl

/-- Two states that agree on all the invariant reads but the lists and `IE`. -/
structure SameBlock (s t : State) : Prop where
  cfg : t.cfg = s.cfg := by rfl
  fb : t.fb = s.fb := by rfl
  state : t.state = s.state := by rfl
  row : t.row = s.row := by rfl
  pass : t.pass = s.pass := by rfl
  busy : t.busy = s.busy := by rfl
  framePending : t.framePending = s.framePending := by rfl
  data : t.data = s.data := by rfl
  clk : t.clk = s.clk := by rfl
  oe : t.oe = s.oe := by rfl
  sr : t.sr = s.sr := by rfl
  qr : t.qr = s.qr := by rfl

/-- What no event of a `StepCore` writes, its own list apart. -/
structure OutsideCore (s t : State) : Prop where
  cfg : t.cfg = s.cfg := by rfl
  fb : t.fb = s.fb := by rfl
  busy : t.busy = s.busy := by rfl
  ie : t.ie = s.ie := by rfl
  normal : t.normal = s.normal := by rfl
  handler : t.handler = s.handler := by rfl
  program : t.program = s.program := by rfl

theorem SameBlock.lines {s t : State} (same : SameBlock s t) : SameLines s t :=
  ⟨same.cfg, same.data, same.clk, same.oe, same.qr⟩

theorem RegistersCoherent.congr {s t : State} (r : RegistersCoherent s) (same : SameBlock s t) :
    RegistersCoherent t := by
  obtain ⟨cfg, fb, state, row, pass, -, framePending, -, -, -, -, -⟩ := same
  constructor <;> simp only [cursorInRange, fb, state, row, pass, framePending, cfg]
  · exact r.memory
  · exact r.code
  · exact r.cursor
  · exact r.idle
  · exact r.frame

theorem LinesCoherent.congr {s t : State} {b : Bool} (l : LinesCoherent s b) (same : SameLines s t) :
    LinesCoherent t b := by
  obtain ⟨cfg, data, clk, oe, qr⟩ := same
  constructor <;> simp only [linesAtRest, linesAtReset, cfg, data, clk, oe, qr]
  · exact l.blanked
  · exact l.resting
  · exact l.unblankedReset

theorem CoreWork.congr {s t : State} {l : List Work} (h : CoreWork s l) (same : SameBlock s t) : CoreWork t l :=
  coreWork_congr h same.data same.clk same.oe same.sr same.qr same.cfg

theorem NormalShape.congr {s t : State} (h : NormalShape s) (same : SameBlock s t) (normal : t.normal = s.normal) :
    NormalShape t := by
  cases h with
  | free work flag => exact .free (normal.trans work) (same.busy.trans flag)
  | copying left frame work some_left in_range size others flag =>
    exact .copying left frame (normal.trans work) some_left in_range size (by rw [same.fb]; exact others)
      (same.busy.trans flag)
  | requesting work copied flag =>
    exact .requesting (normal.trans work) (by rw [same.fb]; exact copied) (same.busy.trans flag)
  | stepping core work shape computing flag =>
    exact .stepping core (normal.trans work) (shape.congr same) (fun h => same.state.trans (computing h))
      (same.busy.trans flag)

theorem HandlerShape.congr {s t : State} (h : HandlerShape s) (same : SameBlock s t) (handler : t.handler = s.handler) :
    HandlerShape t := by
  cases h with
  | absent work => exact .absent (handler.trans work)
  | entering work => exact .entering (handler.trans work)
  | stepping core work shape computing flag =>
    exact .stepping core (handler.trans work) (shape.congr same) (fun h => same.state.trans (computing h))
      (same.busy.trans flag)
  | leaving work => exact .leaving (handler.trans work)

theorem Coherent.regs {s : State} (c : Coherent s) : RegistersCoherent s :=
  ⟨c.memory, c.code, c.cursor, c.idle, c.frame⟩

theorem Coherent.lines {s : State} (c : Coherent s) : LinesCoherent s (sendInFlight s) :=
  ⟨c.blanked, c.resting, c.unblankedReset⟩

theorem Coherent.of_parts {s : State} (regs : RegistersCoherent s) (lines : LinesCoherent s (sendInFlight s))
    (normal : NormalShape s) (handler : HandlerShape s) (enable : s.ie = s.handler.isNone) : Coherent s :=
  ⟨regs.memory, regs.code, regs.cursor, regs.idle, regs.frame, normal, handler, enable, lines.blanked, lines.resting,
    lines.unblankedReset⟩

/-- A change that moves no line and neither begins nor ends a `SEND` keeps the lines' part. -/
theorem Coherent.lines_kept {s t : State} (c : Coherent s) (same : SameLines s t)
    (inFlight : sendInFlight t = sendInFlight s) : LinesCoherent t (sendInFlight t) := by
  rw [inFlight]
  exact c.lines.congr same

/-- A change of the handler's list and of `IE` that neither begins nor ends a `SEND` keeps the invariant. -/
theorem Coherent.of_handler {s t : State} (c : Coherent s) (same : SameBlock s t) (normal : t.normal = s.normal)
    (shape : HandlerShape t) (enable : t.ie = t.handler.isNone) (inFlight : sendInFlight t = sendInFlight s) :
    Coherent t :=
  .of_parts (c.regs.congr same) (c.lines_kept same.lines inFlight) (c.normalShape.congr same normal) shape enable

/-- The invariant reads neither time, the outcome, the host's program nor the schedule. -/
theorem Coherent.congr {s t : State} (c : Coherent s) (same : SameBlock s t) (normal : t.normal = s.normal)
    (handler : t.handler = s.handler) (ie : t.ie = s.ie) : Coherent t :=
  c.of_handler same normal (c.handlerShape.congr same handler) (by rw [ie, handler]; exact c.enable)
    (by rw [sendInFlight, sendInFlight, normal, handler])

/-! #### The lists hold line events only inside a `StepCore` -/

/-- With `busy` at 0 the normal context is in no `SEND`. -/
theorem NormalShape.no_line_of_free {s : State} (h : NormalShape s) (free : s.busy = false) :
    s.normal.any Work.isLine = false := by
  cases h with
  | free work => simp [work]
  | copying left frame work => simp [work]
  | requesting work => simp [work]
  | stepping core work shape computing flag => rw [free] at flag; cases flag

/-- A normal context in a `SEND` has `busy` at 1. -/
theorem NormalShape.busy_of_line {s : State} (h : NormalShape s) (line : s.normal.any Work.isLine = true) :
    s.busy = true := by
  by_contra free
  rw [h.no_line_of_free (by simpa using free)] at line
  cases line

theorem sendInFlight_of_normal {s : State} {core : List Work} (handler : s.handler = none)
    (normal : s.normal = core ++ [.phase3]) : sendInFlight s = core.any Work.isLine := by
  simp [sendInFlight, handler, normal]

theorem sendInFlight_of_handler {s : State} {core : List Work} (free : s.normal.any Work.isLine = false)
    (handler : s.handler = some (core ++ [.run (.outcome executedCode), .leave])) :
    sendInFlight s = core.any Work.isLine := by
  simp [sendInFlight, handler, free]

/-- The tail of a `SEND` not yet at its end holds line events. -/
theorem any_isLine_sending (blank : Bool) (v : ShiftWord) {k : Nat} (more : k < 51) (l : List Work) :
    (((sendTail blank v).drop k).map Work.line ++ l).any Work.isLine = true := by
  obtain ⟨e, next, -⟩ := sendTail_next blank v k more
  simp [next]

/-! #### The events of `StepCore`, in either context -/

/-- The lines and the register after all the events of `SEND(v)` are at rest with `v` on the outputs (R122). -/
theorem linesAtRest_of_send {s : State} {v : ShiftWord} (made : linesAfter (sendEvents s.cfg.oeBlankLevel v) s) :
    linesAtRest s := by
  obtain ⟨r, data, clk, oe, -, qr⟩ := made
  have sent := sendLeavesWordOnOutputs { r with cfg := s.cfg } v
  rw [lineWrites_cfg] at sent
  have sent_data := congrArg State.data sent
  have sent_clk := congrArg State.clk sent
  have sent_oe := congrArg State.oe sent
  have sent_qr := congrArg State.qr sent
  exact ⟨clk.trans sent_clk, by rw [data, qr, show (lineWrites _ r).qr = v from sent_qr]; exact sent_data,
    oe.trans sent_oe⟩

/-- The arm that `state` selects answers, and leaves its `StepCore` done or the word handed to the transport. -/
theorem dispatch_answers {s : State} (rest : List Work) (c : CoreCoherent s [.dispatch]) :
    ∃ core u, exec (decodeState s.state) (withContext rest s) = .next (withContext (core ++ rest) u)
      ∧ CoreCoherent u core ∧ OutsideCore s u := by
  obtain ⟨regs, lines, -, -⟩ := c
  have lines : LinesCoherent s false := lines
  have code := regs.code
  rcases decodeState_cases s.state with ⟨st, arm⟩ | ⟨st, arm⟩ | ⟨st, arm⟩ | ⟨st, arm⟩ | ⟨large, -⟩
  · rw [arm]
    rcases pending : s.framePending
    · exact ⟨[], s, exec_stepIdle_waiting pending, ⟨regs, lines, .done, nofun⟩, {}⟩
    · refine ⟨[], { s with framePending := false, state := 1 }, exec_stepIdle_pending pending,
        ⟨⟨regs.memory, by simp, regs.cursor, nofun, fun _ => regs.frame (.inl pending)⟩, lines.congr {}, .done,
          nofun⟩, {}⟩
  · have written := regs.frame (.inr (by omega))
    rw [arm]
    exact ⟨[], { s with row := 0, pass := 0, lastAction := now s, state := 2 }, rfl,
      ⟨⟨regs.memory, by simp, (cursorInRange_iff _).2 ⟨by simp, Nat.zero_le _⟩, nofun, fun _ => written⟩,
        lines.congr {}, .done, nofun⟩, {}⟩
  · have written := regs.frame (.inr (by omega))
    have row := ((cursorInRange_iff s).1 regs.cursor).1
    obtain ⟨cells, read, -⟩ := readRow_written fun c (hc : c < 6) => written (s.row * 6 + c) (by rw [numCells]; omega)
    rw [arm]
    refine ⟨[.run (.serial (serialCells (shiftWord (rowBits s.row) (colMask cells s.pass)))), .shown], s, ?_,
      ⟨regs, lines, .handed _, fun _ => st⟩, {}⟩
    exact (execStepComputerow_next (s := withContext rest s) regs.cursor read).trans
      (congrArg _ (pushWork_withContext _ _ _))
  · have written := regs.frame (.inr (by omega))
    have cursor := (cursorInRange_iff s).1 regs.cursor
    rw [arm]
    by_cases late : 500 ≤ sinceLastAction (withContext rest s)
    · rw [exec_stepDisplayrow_expired late regs.cursor]
      rcases advanceCursor_cases (withContext rest s) with ⟨more, e⟩ | ⟨last, inner, e⟩ | ⟨last, final, e⟩ <;> rw [e]
      · exact ⟨[], { s with pass := s.pass + 1, state := 2 }, rfl,
          ⟨⟨regs.memory, by simp, (cursorInRange_iff _).2 ⟨cursor.1, more⟩, nofun, fun _ => written⟩,
            lines.congr {}, .done, nofun⟩, {}⟩
      · have inner : s.row + 1 < 10 := by
          have : s.row + 1 ≠ 10 := inner
          omega
        exact ⟨[], { s with pass := 0, row := s.row + 1, state := 2 }, rfl,
          ⟨⟨regs.memory, by simp, (cursorInRange_iff _).2 ⟨inner, Nat.zero_le _⟩, nofun, fun _ => written⟩,
            lines.congr {}, .done, nofun⟩, {}⟩
      · exact ⟨[], { s with pass := 0, row := 0, state := 0 }, rfl,
          ⟨⟨regs.memory, by simp, (cursorInRange_iff _).2 ⟨by simp, Nat.zero_le _⟩, fun _ => ⟨rfl, rfl⟩,
            fun _ => written⟩, lines.congr {}, .done, nofun⟩, {}⟩
    · exact ⟨[], s, exec_stepDisplayrow_holding (Nat.lt_of_not_le late), ⟨regs, lines, .done, nofun⟩, {}⟩
  · omega

/-- The event of a `SEND` in flight: the next of its table, or the last, which leaves the lines at rest. -/
theorem lineWrite_sending {s : State} {v : ShiftWord} {k : Nat} (more : k < 51)
    (c : CoreCoherent s (((sendTail s.cfg.oeBlankLevel v).drop k).map .line ++ [.shown]))
    (made : linesAfter ((sendEvents s.cfg.oeBlankLevel v).take (k + 1)) s) :
    ∃ e core, ((sendTail s.cfg.oeBlankLevel v).drop k).map Work.line ++ [.shown] = .line e :: core
      ∧ CoreCoherent (lineWrite e s) core ∧ (core.any Work.isLine = false → linesAtRest (lineWrite e s)) := by
  obtain ⟨regs, lines, -, computing⟩ := c
  rw [any_isLine_sending _ v more] at lines
  obtain ⟨e, next, inside, last, snoc⟩ := sendTail_next s.cfg.oeBlankLevel v k more
  have made := linesAfter_snoc e made
  rw [snoc] at made
  have state : s.state = 2 := computing (by simp)
  have regs : RegistersCoherent (lineWrite e s) := ⟨regs.memory, regs.code, regs.cursor, regs.idle, regs.frame⟩
  refine ⟨e, ((sendTail s.cfg.oeBlankLevel v).drop (k + 1)).map .line ++ [.shown], by rw [next]; rfl, ?_⟩
  by_cases before : k + 1 < 51
  · have line := any_isLine_sending s.cfg.oeBlankLevel v before [.shown]
    refine ⟨⟨regs, ?_, .sending v (k + 1) before made, fun _ => state⟩, fun ended => ?_⟩
    · rw [line]
      exact ⟨by simpa [inside (by omega)] using lines.blanked, nofun, lines.unblankedReset⟩
    · rw [line] at ended
      cases ended
  · obtain rfl : k = 50 := by omega
    obtain rfl := last rfl
    have rest : linesAtRest (lineWrite ⟨.oe, !s.cfg.oeBlankLevel⟩ s) := linesAtRest_of_send (v := v) made
    have none_left : (sendTail s.cfg.oeBlankLevel v).drop (50 + 1) = [] := rfl
    rw [none_left]
    exact ⟨⟨regs, ⟨by simp, fun _ => .inl rest, lines.unblankedReset⟩, .sent, fun _ => state⟩, fun _ => rest⟩

/-- A `StepCore` with an event left makes it, in whichever context it runs. -/
theorem core_answers {s : State} {core rest : List Work} (c : CoreCoherent s core)
    (context : contextWork s = core ++ rest) (left : core ≠ []) :
    ∃ core' u, runNext s = .next (withContext (core' ++ rest) u) ∧ CoreCoherent u core' ∧ OutsideCore s u
      ∧ (core.any Work.isLine = true → core'.any Work.isLine = false → linesAtRest u) := by
  have work := c.work
  cases work with
  | dispatch =>
    obtain ⟨core', u, answer, next⟩ := dispatch_answers rest c
    refine ⟨core', u, ?_, next.1, next.2, nofun⟩
    rw [runNext_of_code (nextWork_of_contextWork context) rfl, runCode_of_decode rfl]
    exact answer
  | handed v =>
    have made : linesAfter ((sendEvents s.cfg.oeBlankLevel v).take (0 + 1)) (lineWrite ⟨.oe, s.cfg.oeBlankLevel⟩ s) :=
      ⟨s, rfl, rfl, rfl, rfl, rfl⟩
    refine ⟨((sendTail s.cfg.oeBlankLevel v).drop 0).map .line ++ [.shown], lineWrite ⟨.oe, s.cfg.oeBlankLevel⟩ s, ?_,
      ⟨⟨c.regs.memory, c.regs.code, c.regs.cursor, c.regs.idle, c.regs.frame⟩, ?_,
        .sending (s := lineWrite ⟨.oe, s.cfg.oeBlankLevel⟩ s) v 0 (by decide) made, fun _ => c.computing (by simp)⟩,
      {}, nofun⟩
    · rw [runNext_of_code (nextWork_of_contextWork context) rfl, runCode_of_decode (decode_serialCells _ v)]
      refine congrArg Host.Outcome.next ((pushWork_withContext _ (.shown :: rest)
        (lineWrite ⟨.oe, s.cfg.oeBlankLevel⟩ s)).trans ?_)
      rw [List.drop_zero, List.append_assoc]
      rfl
    · rw [any_isLine_sending _ v (by decide)]
      exact ⟨by simp, nofun, c.lines.unblankedReset⟩
  | sending v k more made =>
    obtain ⟨e, core', split, next, rested⟩ := lineWrite_sending more c made
    rw [split] at context
    refine ⟨core', lineWrite e s, ?_, next, {}, fun _ => rested⟩
    exact runNext_of_event (nextWork_of_contextWork context) rfl
  | sent =>
    have written : frameWritten s.fb := c.regs.frame (.inr (by rw [c.computing (by simp)]; decide))
    refine ⟨[], { s with lastAction := now s, state := 3 }, runNext_of_event (nextWork_of_contextWork context) rfl,
      ⟨⟨c.regs.memory, by simp, c.regs.cursor, nofun, fun _ => written⟩, c.lines.congr {}, .done, nofun⟩,
      {}, nofun⟩
  | done => exact absurd rfl left

/-! #### One event of a context with something in flight -/

/-- A coherent next state with the host's operations as they were; and where a `SEND` ended, the lines at rest. -/
structure Advances (s t : State) : Prop where
  coherent : Coherent t
  program : t.program = s.program
  ended : sendInFlight s = true → sendInFlight t = false → linesAtRest t

/-- Both `SEND`s in flight or both not: none has ended. -/
theorem Advances.of_inFlight {s t : State} (coherent : Coherent t) (program : t.program = s.program)
    (inFlight : sendInFlight t = sendInFlight s) : Advances s t :=
  ⟨coherent, program, fun before after => by rw [inFlight, before] at after; cases after⟩

/-- A cell write leaves every written cell written. -/
theorem readCell_writeCell_isSome {m : List Cell} {j : Nat} (i v : Nat) (h : (readCell m j).isSome) :
    (readCell (writeCell m i v) j).isSome := by
  rw [readCell_writeCell]
  split
  · rfl
  · exact h

/-- Taking out the element at an index takes out nothing else. -/
theorem eq_of_not_mem_eraseIdx {l : List Nat} {k i j : Nat} (at_k : l[k]? = some i) (mem : j ∈ l)
    (gone : j ∉ l.eraseIdx k) : j = i := by
  obtain ⟨n, hn, rfl⟩ := List.getElem_of_mem mem
  by_contra ne
  refine gone (List.mem_eraseIdx_iff_getElem.2 ⟨n, hn, ?_, rfl⟩)
  rintro rfl
  rw [List.getElem?_eq_getElem hn] at at_k
  exact ne (Option.some.inj at_k)

/-- A cell write in the copy of a frame. -/
theorem copying_advances {s : State} (c : Coherent s) (handler : s.handler = none) {left frame : List Nat}
    (work : s.normal = [.copy left frame]) (some_left : left ≠ []) (in_range : ∀ i ∈ left, i < numCells)
    (size : frame.length = numCells) (others : ∀ i, i < numCells → i ∉ left → (readCell s.fb i).isSome)
    (flag : s.busy = false) : ∃ t, runNext s = .next t ∧ Advances s t := by
  obtain ⟨i, v, mem, picked, value, answer⟩ :=
    copyOne_answers (s := withContext [] s) (left := left) (frame := frame) some_left in_range size
  have context : contextWork s = [.copy left frame] := by simp [contextWork, handler, work]
  set rest := left.eraseIdx (s.pick % left.length)
  have run : runNext s = .next { s with
      fb := writeCell s.fb i v, normal := [if rest.isEmpty then .request else .copy rest frame] } := by
    rw [runNext_of_event (nextWork_of_contextWork context) rfl]
    refine answer.trans (congrArg _ ?_)
    rw [withContext_of_normal [] handler]
    exact pushWork_of_normal _ handler
  have written : ∀ j, j < numCells → j ∉ rest → (readCell (writeCell s.fb i v) j).isSome := fun j hj hr => by
    by_cases hl : j ∈ left
    · rw [eq_of_not_mem_eraseIdx picked hl hr, readCell_writeCell_same]
      rfl
    · exact readCell_writeCell_isSome i v (others j hj hl)
  have inFlight : sendInFlight s = false := by simp [sendInFlight, handler, work]
  have inFlight' : sendInFlight { s with
      fb := writeCell s.fb i v, normal := [if rest.isEmpty then .request else .copy rest frame] } = sendInFlight s := by
    rw [inFlight]
    simp only [sendInFlight, handler]
    split <;> rfl
  refine ⟨_, run, .of_inFlight (.of_parts ?_ (c.lines_kept {} inFlight') ?_ (.absent handler) c.enable) rfl inFlight'⟩
  · exact ⟨writeCell_wf v c.memory (in_range i mem), c.code, c.cursor, c.idle, fun h j hj =>
    readCell_writeCell_isSome _ v (c.frame h j hj)⟩
  · rcases empty : rest.isEmpty
    · exact .copying rest frame rfl (by simpa using empty)
        (fun j hj => in_range j (List.mem_of_mem_eraseIdx hj)) size written flag
    · have nil : rest = [] := by simpa using empty
      exact .requesting rfl (fun j hj => written j hj (by simp [nil])) flag

/-- The request that ends a `SETFRAME`. -/
theorem requesting_advances {s : State} (c : Coherent s) (handler : s.handler = none) (work : s.normal = [.request])
    (copied : frameWritten s.fb) (flag : s.busy = false) : ∃ t, runNext s = .next t ∧ Advances s t := by
  have context : contextWork s = [.request] := by simp [contextWork, handler, work]
  have run : runNext s = .next { s with normal := [], framePending := true } := by
    rw [runNext_of_event (nextWork_of_contextWork context) rfl, withContext_of_normal [] handler]
    rfl
  have inFlight : sendInFlight { s with normal := [], framePending := true } = sendInFlight s := by
    simp [sendInFlight, handler, work]
  exact ⟨_, run, .of_inFlight (.of_parts ⟨c.memory, c.code, c.cursor, c.idle, fun _ => copied⟩
    (c.lines_kept {} inFlight) (.free rfl flag) (.absent handler) c.enable) rfl inFlight⟩

/-- An event of a normal-context `STEP` past its entry check. -/
theorem stepping_advances {s : State} (c : Coherent s) (handler : s.handler = none) {core : List Work}
    (work : s.normal = core ++ [.phase3]) (shape : CoreWork s core) (computing : .shown ∈ core → s.state = 2)
    (flag : s.busy = true) : ∃ t, runNext s = .next t ∧ Advances s t := by
  have inFlight := sendInFlight_of_normal handler work
  have context : contextWork s = core ++ [.phase3] := by simp [contextWork, handler, work]
  have lines := c.lines
  rw [inFlight] at lines
  by_cases left : core = []
  · subst left
    have run : runNext s = .next
        (reportOutcome executedCode (writeIe true { writeIe false { s with normal := [] } with busy := false })) := by
      rw [runNext_of_event (nextWork_of_contextWork context) rfl, withContext_of_normal [] handler]
      rfl
    have inFlight' : sendInFlight (reportOutcome executedCode
        (writeIe true { writeIe false { s with normal := [] } with busy := false })) = sendInFlight s := by
      simp [sendInFlight, handler, work]
    exact ⟨_, run, .of_inFlight (.of_parts ⟨c.memory, c.code, c.cursor, c.idle, c.frame⟩ (c.lines_kept {} inFlight')
      (.free rfl rfl) (.absent handler) (by simp [handler])) rfl inFlight'⟩
  · obtain ⟨core', u, run, next, outside, rested⟩ := core_answers ⟨c.regs, lines, shape, computing⟩ context left
    have handler' : u.handler = none := outside.handler.trans handler
    rw [withContext_of_normal _ handler'] at run
    have inFlight' : sendInFlight { u with normal := core' ++ [.phase3] } = core'.any Work.isLine :=
      sendInFlight_of_normal handler' rfl
    have same : SameBlock u { u with normal := core' ++ [.phase3] } := {}
    refine ⟨_, run, .of_parts (next.regs.congr same) ?_ ?_ (.absent handler') ?_, outside.program,
      fun before after => ?_⟩
    · rw [inFlight']
      exact next.lines.congr same.lines
    · exact .stepping core' rfl (next.work.congr same) next.computing (outside.busy.trans flag)
    · show u.ie = u.handler.isNone
      rw [outside.ie, outside.handler]
      exact c.enable
    · rw [inFlight'] at after
      rw [inFlight] at before
      exact rested before after

/-- An event of the `STEPIRQ` of the interrupt handler. -/
theorem handling_advances {s : State} (c : Coherent s) {core : List Work}
    (work : s.handler = some (core ++ [.run (.outcome executedCode), .leave])) (shape : CoreWork s core)
    (computing : .shown ∈ core → s.state = 2) (flag : s.busy = false) : ∃ t, runNext s = .next t ∧ Advances s t := by
  have no_line := c.normalShape.no_line_of_free flag
  have inFlight := sendInFlight_of_handler no_line work
  have context : contextWork s = core ++ [.run (.outcome executedCode), .leave] := by simp [contextWork, work]
  have lines := c.lines
  rw [inFlight] at lines
  by_cases left : core = []
  · subst left
    have run : runNext s = .next (reportOutcome executedCode { s with handler := some [.leave] }) := by
      rw [runNext_of_code (nextWork_of_contextWork context) rfl, withContext_of_handler _ work]
      rfl
    have inFlight' : sendInFlight (reportOutcome executedCode { s with handler := some [.leave] })
        = sendInFlight s := by simp [sendInFlight, work]
    exact ⟨_, run, .of_inFlight
      (c.of_handler {} rfl (.leaving rfl) (by simpa [work] using c.enable) inFlight') rfl inFlight'⟩
  · obtain ⟨core', u, run, next, outside, rested⟩ := core_answers ⟨c.regs, lines, shape, computing⟩ context left
    rw [withContext_of_handler _ (outside.handler.trans work)] at run
    have inFlight' : sendInFlight { u with handler := some (core' ++ [.run (.outcome executedCode), .leave]) }
        = core'.any Work.isLine := sendInFlight_of_handler (by rw [outside.normal]; exact no_line) rfl
    have same : SameBlock u { u with handler := some (core' ++ [.run (.outcome executedCode), .leave]) } := {}
    refine ⟨_, run, .of_parts (next.regs.congr same) ?_ ?_ ?_ ?_, outside.program, fun before after => ?_⟩
    · rw [inFlight']
      exact next.lines.congr same.lines
    · have busy : u.busy = false := outside.busy.trans flag
      cases c.normalShape with
      | free work => exact .free (outside.normal.trans work) busy
      | copying l f work some_left in_range size others =>
        exact .copying l f (outside.normal.trans work) some_left in_range size (by rw [outside.fb]; exact others) busy
      | requesting work copied => exact .requesting (outside.normal.trans work) (by rw [outside.fb]; exact copied) busy
      | stepping _ _ _ _ set => rw [flag] at set; cases set
    · exact .stepping core' rfl (next.work.congr same) next.computing (outside.busy.trans flag)
    · show u.ie = false
      rw [outside.ie, c.enable, work]
      rfl
    · rw [inFlight'] at after
      rw [inFlight] at before
      exact rested before after

/-- The handler's `STEPIRQ`. -/
theorem entering_advances {s : State} (c : Coherent s) (work : s.handler = some [.run stepirqCode, .leave]) :
    ∃ t, runNext s = .next t ∧ Advances s t := by
  have context : contextWork s = [.run stepirqCode, .leave] := by simp [contextWork, work]
  have masked : s.ie = false := by rw [c.enable, work]; rfl
  have run : runNext s = exec .stepirq { s with handler := some [.leave] } := by
    rw [runNext_of_code (nextWork_of_contextWork context) rfl, withContext_of_handler _ work]
    exact runCode_of_decode rfl
  rcases flag : s.busy
  · have answer : runNext s = .next { s with handler := some [.dispatch, .run (.outcome executedCode), .leave] } :=
      run.trans ((exec_stepirq_passed (s := { s with handler := some [.leave] }) rfl masked flag).trans
        (congrArg _ (pushWork_of_handler _ rfl)))
    have inFlight : sendInFlight { s with handler := some [.dispatch, .run (.outcome executedCode), .leave] }
        = sendInFlight s := by simp [sendInFlight, work]
    exact ⟨_, answer, .of_inFlight (c.of_handler {} rfl (.stepping [.dispatch] rfl .dispatch (by simp) flag)
      masked inFlight) rfl inFlight⟩
  · have answer : runNext s = .next (reportOutcome skippedCode { s with handler := some [.leave] }) :=
      run.trans (exec_stepirq_skipped rfl masked flag)
    have inFlight : sendInFlight (reportOutcome skippedCode { s with handler := some [.leave] }) = sendInFlight s := by
      simp [sendInFlight, work]
    exact ⟨_, answer, .of_inFlight (c.of_handler {} rfl (.leaving rfl) masked inFlight) rfl inFlight⟩

/-- The handler's return. -/
theorem leaving_advances {s : State} (c : Coherent s) (work : s.handler = some [.leave]) :
    ∃ t, runNext s = .next t ∧ Advances s t := by
  have context : contextWork s = [.leave] := by simp [contextWork, work]
  have run : runNext s = .next (returnInterrupt { s with handler := some [] }) := by
    rw [runNext_of_event (nextWork_of_contextWork context) rfl, withContext_of_handler _ work]
    rfl
  have inFlight : sendInFlight (returnInterrupt { s with handler := some [] }) = sendInFlight s := by
    simp [sendInFlight, work]
  exact ⟨_, run, .of_inFlight (c.of_handler {} rfl (.absent rfl) rfl inFlight) rfl inFlight⟩

/-- A coherent state with something in flight makes its next event. -/
theorem inFlight_advances {s : State} (c : Coherent s) (work : s.handler ≠ none ∨ s.normal ≠ []) :
    ∃ t, runNext s = .next t ∧ Advances s t := by
  cases c.handlerShape with
  | absent handler =>
    cases c.normalShape with
    | free normal => exact absurd normal (work.resolve_left (not_not_intro handler))
    | copying left frame normal some_left in_range size others flag =>
      exact copying_advances c handler normal some_left in_range size others flag
    | requesting normal copied flag => exact requesting_advances c handler normal copied flag
    | stepping core normal shape computing flag => exact stepping_advances c handler normal shape computing flag
  | entering handler => exact entering_advances c handler
  | stepping core handler shape computing flag => exact handling_advances c handler shape computing flag
  | leaving handler => exact leaving_advances c handler

/-! #### One operation of the host -/

theorem format_of_shiftFields {i : Instr} {r : Nat} {col : ColField} (h : i.shiftFields = some (r, col)) :
    i.format = .srword := by
  cases i <;> cases h <;> rfl

/-- A `SETFRAME` in one event leaves every cell written and the request made. -/
theorem setframeWhole_coherent {s : State} {f : List Nat} (c : Coherent s) (handler : s.handler = none)
    (normal : s.normal = []) (flag : s.busy = false) (size : f.length = 60) :
    Coherent { s with fb := writeFrame s.fb 0 f, framePending := true } := by
  have written : frameWritten (writeFrame s.fb 0 f) := fun j (hj : j < 60) => by
    have small : j < f.length := by omega
    rw [readCell_writeFrame, if_pos ⟨Nat.zero_le _, by omega⟩]
    simp [small]
  exact .of_parts ⟨writeFrame_wf c.memory (by rw [size]; decide), c.code, c.cursor, c.idle, fun _ => written⟩
    (c.lines_kept {} rfl) (.free normal flag) (.absent handler) c.enable

/-- The first cell write of a `SETFRAME` leaves the other 59 to be made. -/
theorem setframeFirst_coherent {s : State} {f : List Nat} {i v : Nat} (c : Coherent s) (handler : s.handler = none)
    (normal : s.normal = []) (flag : s.busy = false) (size : f.length = 60) (small : i < 60) :
    Coherent { s with
      fb := writeCell s.fb i v, normal := [.copy ((List.range 60).eraseIdx i) f] } := by
  have left := mem_eraseIdx_iff List.nodup_range (show (List.range 60)[i]? = some i by simp [small])
  have others : ∀ j, j < numCells → j ∉ (List.range 60).eraseIdx i → (readCell (writeCell s.fb i v) j).isSome := by
    intro j hj gone
    obtain rfl : j = i := by
      by_contra ne
      exact gone ((left j).2 ⟨List.mem_range.2 hj, ne⟩)
    rw [readCell_writeCell_same]
    rfl
  refine .of_parts ⟨writeCell_wf v c.memory small, c.code, c.cursor, c.idle, fun h j hj =>
    readCell_writeCell_isSome _ v (c.frame h j hj)⟩
    (c.lines_kept {} ?_) (.copying _ f rfl ?_ (fun j hj => ?_) size others flag) (.absent handler) c.enable
  · simp [sendInFlight, handler, normal]
  · exact List.isEmpty_eq_false_iff.1 (range_eraseIdx_not_empty small)
  · exact List.mem_range.1 ((left j).1 hj).1

/-- `INIT` leaves the lines at their reset levels, which do not blank. -/
theorem afterInit_coherent {s : State} (c : Coherent s) (handler : s.handler = none) (normal : s.normal = []) :
    Coherent (afterInit s) := by
  have inFlight : sendInFlight (afterInit s) = false := by simp [sendInFlight, handler, normal]
  refine .of_parts ⟨c.memory, Nat.zero_le _, ?_, fun _ => ⟨rfl, rfl⟩, by simp⟩ ?_ (.free normal rfl) (.absent handler)
    c.enable
  · exact (cursorInRange_iff _).2 ⟨by simp, Nat.zero_le _⟩
  · rw [inFlight]
    exact ⟨by simpa using c.unblankedReset, fun _ => .inr ⟨rfl, rfl, rfl⟩, c.unblankedReset⟩

/-- With nothing in flight `busy` is 0. -/
theorem NormalShape.free_of_idle {s : State} (h : NormalShape s) (normal : s.normal = []) : s.busy = false := by
  cases h with
  | free _ flag => exact flag
  | copying _ _ _ _ _ _ _ flag => exact flag
  | requesting _ _ flag => exact flag
  | stepping core work => rw [normal] at work; simp at work

/-- An operation of the host, run with nothing in flight, keeps the invariant. -/
theorem host_operation_coherent {s t : State} {i : Instr} (c : Coherent s) (handler : s.handler = none)
    (normal : s.normal = []) (host : i.format = .hostcmd ∨ i = .init) (x : ExecNext s i t) : Coherent t := by
  have flag := c.normalShape.free_of_idle normal
  have enabled : s.ie = true := by rw [c.enable, handler]; rfl
  cases x with
  | nop => exact c
  | setframeWhole f _ size => exact setframeWhole_coherent c handler normal flag size
  | setframeFirst f v _ size =>
    rw [pushWork_of_normal _ (by exact handler), normal]
    exact setframeFirst_coherent c handler normal flag size (Nat.mod_lt _ (by decide))
  | isready => exact c.congr {} rfl rfl rfl
  | stepAborted => exact c.congr {} rfl rfl (by simp [enabled])
  | stepPassed =>
    rw [pushWork_of_normal _ (by exact handler)]
    exact .of_parts ⟨c.memory, c.code, c.cursor, c.idle, c.frame⟩
      (c.lines_kept {} (by simp [sendInFlight, handler, normal]))
      (.stepping [.dispatch] (by simp [normal]) .dispatch (by simp) rfl) (.absent handler) (by simp [handler])
  | stepirqSkipped inHandler => simp [handler] at inHandler
  | stepirqPassed inHandler => simp [handler] at inHandler
  | init => exact afterInit_coherent c handler normal
  | word _ _ _ fields =>
    rcases host with format | rfl
    · rw [format_of_shiftFields fields] at format; cases format
    · cases fields
  | _ => rcases host with format | init <;> simp [Instr.format] at *

/-- What a port input presents: the host command on `op`, or `INIT` (log entry 30). -/
theorem decode_portInput (cfg : Config) (p : PortInput) :
    ∃ i, decode cfg p.code = .ok i ∧ (i.format = .hostcmd ∨ i = .init)
      ∧ (p.rst = 1#1 ∨ i = decodeHostcmd cfg p.op p.frameIn) ∧ (p.rst = 1#1 → i = .init) := by
  by_cases reset : p.rst = 1#1
  · exact ⟨.init, by rw [PortInput.code, if_pos reset]; rfl, .inr rfl, .inl reset, fun _ => rfl⟩
  · refine ⟨decodeHostcmd cfg p.op p.frameIn, by rw [PortInput.code, if_neg reset]; rfl, .inl ?_, .inr rfl,
      fun h => absurd h reset⟩
    rcases op_cases p.op with e | e | e | e | e | e | e | e <;> rw [e] <;> rfl

/-- With nothing in flight the normal context runs the host's next input. -/
theorem runNext_of_program {s : State} {p : PortInput} {ps : List PortInput} (handler : s.handler = none)
    (normal : s.normal = []) (program : s.program = p :: ps) : runNext s = runCode p.code { s with program := ps } := by
  have next : nextWork s = (.run p.code, { s with program := ps }) := by
    simp only [nextWork, handler, normal, program]
  exact runNext_of_code next rfl

/-- The ports with nothing in flight: the host's next input, or none. -/
theorem runNext_of_host {s : State} (handler : s.handler = none) (normal : s.normal = []) :
    ∃ p ps, (s.program = p :: ps ∨ s.program = [] ∧ p = idlePort ∧ ps = [])
      ∧ runNext s = runCode p.code { s with program := ps } := by
  rcases program : s.program with _ | ⟨p, ps⟩
  · have same : { s with program := [] } = s := by
      cases s
      cases program
      rfl
    have next : nextWork s = (.run idlePort.code, s) := by simp only [nextWork, handler, normal, program]
    exact ⟨idlePort, [], .inr ⟨rfl, rfl, rfl⟩, by rw [same]; exact runNext_of_code next rfl⟩
  · exact ⟨p, ps, .inl rfl, runNext_of_program handler normal program⟩

/-! #### The step -/

/-- An event of the current context keeps the invariant. -/
theorem runNext_coherent {s t : State} (c : Coherent s) (h : runNext s = .next t) : Coherent t := by
  by_cases idle : s.handler = none ∧ s.normal = []
  · obtain ⟨handler, normal⟩ := idle
    obtain ⟨p, ps, -, run⟩ := runNext_of_host handler normal
    obtain ⟨i, dec, host, -⟩ := decode_portInput s.cfg p
    have c' : Coherent { s with program := ps } := c.congr {} rfl rfl rfl
    refine host_operation_coherent c' handler normal host (exec_next ?_)
    rw [← h, run]
    exact (runCode_of_decode (s := { s with program := ps }) dec).symm
  · obtain ⟨u, run, next⟩ := inFlight_advances c (not_and_or.1 idle)
    cases run.symm.trans h
    exact next.coherent

/-- The arrival of the interrupt keeps the invariant. -/
theorem interruptArrives_coherent {s : State} (c : Coherent s) : Coherent (interruptArrives s) := by
  rcases interruptArrives_cases s with ⟨-, handler, e⟩ | ⟨-, e⟩ <;> rw [e]
  · exact c.of_handler {} rfl (.entering rfl) rfl (by simp [sendInFlight, handler])
  · exact c

/-- The schedule's three choices: time or the interrupt, or an event of the current context. -/
theorem step_eq (s : State) :
    (∃ n l, s.schedule = .tick n :: l ∧ step s = .next (passTime n { s with schedule := l }))
    ∨ (∃ l, s.schedule = .irq :: l ∧ step s = .next (interruptArrives { s with schedule := l }))
    ∨ ∃ l k, step s = runNext { s with schedule := l, pick := k } := by
  rcases choice : s.schedule with _ | ⟨more | _ | k, rest⟩
  · exact .inr (.inr ⟨[], 0, step_of_empty choice⟩)
  · exact .inl ⟨more, rest, rfl, by simp only [step, choice]⟩
  · exact .inr (.inl ⟨rest, rfl, step_irq choice⟩)
  · exact .inr (.inr ⟨rest, k, step_of_advance choice⟩)

/-- Settles O44: time and the interrupt touch no part of the invariant but the handler's; an event of the current
context is one of the host's operations, of a `SETFRAME`, of a `StepCore` or of the handler. -/
theorem stepKeepsCoherent : Obligations.StepKeepsCoherent := by
  intro s t c h
  rcases step_eq s with ⟨n, l, -, e⟩ | ⟨l, -, e⟩ | ⟨l, k, e⟩
  · cases e.symm.trans h
    exact c.congr {} rfl rfl rfl
  · cases e.symm.trans h
    exact interruptArrives_coherent (c.congr {} rfl rfl rfl)
  · exact runNext_coherent (s := { s with schedule := l, pick := k }) (c.congr {} rfl rfl rfl) (e.symm.trans h)

/-! #### No step stops (R140) -/

/-- An instruction leaves the host's operations alone. -/
theorem ExecNext.program_eq {s t : State} {i : Instr} (x : ExecNext s i t) : t.program = s.program := by
  cases x <;> rfl

/-- The host's operations that belong to the normal context answer there with nothing in flight. -/
theorem host_operation_answers {s : State} {p : PortInput} (handler : s.handler = none) (normal : s.normal = [])
    (belongs : p.rst = 1#1 ∨ p.op.toNat ≤ 3) : ∃ t, runCode p.code s = .next t := by
  obtain ⟨i, dec, -, command, reset⟩ := decode_portInput s.cfg p
  rw [runCode_of_decode dec]
  rcases eq_or_ne p.rst 1#1 with rst | rst
  · rw [reset rst]
    exact ⟨_, exec_init_idle handler normal⟩
  · rw [command.resolve_left rst]
    have small := belongs.resolve_left rst
    rcases op_cases p.op with e | e | e | e | e | e | e | e <;> rw [e] at small ⊢
    · exact ⟨s, rfl⟩
    · have size := length_unpackFrame s.cfg.intensityW p.frameIn
      rcases atomic : s.cfg.setframeAtomic
      · obtain ⟨v, -, answer⟩ := exec_setframe_first handler size atomic
        exact ⟨_, answer⟩
      · exact ⟨_, exec_setframe_atomic handler size atomic⟩
    · exact ⟨_, exec_isready_normal handler⟩
    · by_cases closed : s.busy = true ∨ sinceLastAction s < 2
      · exact ⟨_, exec_step_aborted handler closed⟩
      · obtain ⟨free, late⟩ := not_or.1 closed
        exact ⟨_, exec_step_passed handler (by simpa using free) (Nat.le_of_not_lt late)⟩
    all_goals exact absurd small (by decide)

/-- An event of the current context answers, and the host's premise holds again. -/
theorem runNext_answers {s : State} (c : Coherent s) (keeps : hostKeepsContexts s = true) :
    ∃ t, runNext s = .next t ∧ hostKeepsContexts t = true := by
  by_cases idle : s.handler = none ∧ s.normal = []
  · obtain ⟨handler, normal⟩ := idle
    obtain ⟨p, ps, presented, run⟩ := runNext_of_host handler normal
    have premise : (p.rst = 1#1 ∨ p.op.toNat ≤ 3) ∧ hostKeepsContexts { s with program := ps } = true := by
      rcases presented with program | ⟨-, rfl, rfl⟩
      · simpa [hostKeepsContexts, program] using keeps
      · exact ⟨.inr (by decide), rfl⟩
    obtain ⟨t, answer⟩ := host_operation_answers (s := { s with program := ps }) handler normal premise.1
    refine ⟨t, run.trans answer, ?_⟩
    obtain ⟨i, dec, -⟩ := decode_portInput s.cfg p
    have program := (exec_next ((runCode_of_decode (s := { s with program := ps }) dec).symm.trans answer)).program_eq
    rw [hostKeepsContexts, program]
    exact premise.2
  · obtain ⟨t, run, next⟩ := inFlight_advances c (not_and_or.1 idle)
    exact ⟨t, run, by rw [hostKeepsContexts, next.program]; exact keeps⟩

/-- Settles O45. -/
theorem coherentNeverStops : Obligations.CoherentNeverStops := by
  intro s c keeps
  rcases step_eq s with ⟨n, l, -, e⟩ | ⟨l, -, e⟩ | ⟨l, k, e⟩
  · exact ⟨_, e, keeps⟩
  · obtain ⟨ie, h, same⟩ := interruptArrives_frame { s with schedule := l }
    exact ⟨_, e, by rw [same]; exact keeps⟩
  · rw [e]
    exact runNext_answers (c.congr {} rfl rfl rfl) keeps

/-! #### The end of a `SEND`, and what comes between its events -/

/-- Settles O51: from a coherent state only a `SEND`'s own last event ends it (`Advances.ended`). -/
theorem linesRestBetweenSends : Obligations.LinesRestBetweenSends := by
  refine ⟨fun s t c before h after => ?_, fun s t before h after => lines_kept_outside_send before h after⟩
  obtain ⟨-, -, -, -, -, -, -, -, -, -, cfg⟩ := registersWrittenByOwnersOnly s t h
  suffices rest : linesAtRest t by rw [← cfg]; exact rest
  rcases step_eq s with ⟨n, l, -, e⟩ | ⟨l, -, e⟩ | ⟨l, k, e⟩
  · cases e.symm.trans h
    cases before.symm.trans after
  · cases e.symm.trans h
    rcases interruptArrives_cases { s with schedule := l } with ⟨-, handler, e⟩ | ⟨-, e⟩ <;> rw [e] at after
    · have handler : s.handler = none := handler
      have same : sendInFlight (takeInterrupt { s with schedule := l }) = sendInFlight s := by
        simp [sendInFlight, handler]
      cases before.symm.trans (same.symm.trans after)
    · cases before.symm.trans after
  · have work : s.handler ≠ none ∨ s.normal ≠ [] := by
      by_contra idle
      simp only [not_or, not_not] at idle
      simp [sendInFlight, idle] at before
    obtain ⟨u, run, next⟩ := inFlight_advances (s := { s with schedule := l, pick := k }) (c.congr {} rfl rfl rfl) work
    cases run.symm.trans (e.symm.trans h)
    exact next.ended before after

/-- Beside the `SEND` of a busy normal context the handler can only skip and return. -/
theorem normal_send_unbroken {s t : State} {e : LineEvent} {ws : List Work} (c : Coherent s)
    (work : s.normal = .line e :: ws) (h : runNext s = .next t) :
    (t.normal = ws ∧ t.trace = s.trace ++ [e])
    ∨ (t.normal = s.normal ∧ t.trace = s.trace ∧ t.data = s.data ∧ t.clk = s.clk ∧ t.oe = s.oe
        ∧ t.sr = s.sr ∧ t.qr = s.qr) := by
  have busy : s.busy = true := c.normalShape.busy_of_line (by simp [work])
  cases c.handlerShape with
  | absent handler =>
    have context : contextWork s = .line e :: ws := by simp [contextWork, handler, work]
    rw [runNext_of_event (nextWork_of_contextWork context) rfl, withContext_of_normal _ handler] at h
    cases h
    exact .inl ⟨rfl, rfl⟩
  | entering handler =>
    have context : contextWork s = [.run stepirqCode, .leave] := by simp [contextWork, handler]
    rw [runNext_of_code (nextWork_of_contextWork context) rfl, withContext_of_handler _ handler,
      runCode_of_decode (i := .stepirq) rfl] at h
    cases exec_next h with
    | stepirqSkipped => exact .inr ⟨rfl, rfl, rfl, rfl, rfl, rfl, rfl⟩
    | stepirqPassed _ free => rw [show s.busy = false from free] at busy; cases busy
    | word _ _ _ fields => cases fields
  | stepping core handler shape computing free => rw [free] at busy; cases busy
  | leaving handler =>
    have context : contextWork s = [.leave] := by simp [contextWork, handler]
    rw [runNext_of_event (nextWork_of_contextWork context) rfl, withContext_of_handler _ handler] at h
    cases h
    exact .inr ⟨rfl, rfl, rfl, rfl, rfl, rfl, rfl⟩

/-- Settles O37: time and the interrupt touch nothing of a `SEND` in the normal context (`normal_send_unbroken`); inside
the handler only time passes. -/
theorem sendIsUnbroken : Obligations.SendIsUnbroken := by
  refine ⟨fun s t e ws c work h => ?_, fun s t e ws work h => ?_⟩
  · rcases step_eq s with ⟨n, l, -, st⟩ | ⟨l, -, st⟩ | ⟨l, k, st⟩
    · cases st.symm.trans h
      exact .inr ⟨rfl, rfl, rfl, rfl, rfl, rfl, rfl⟩
    · cases st.symm.trans h
      obtain ⟨ie, hd, same⟩ := interruptArrives_frame { s with schedule := l }
      rw [same]
      exact .inr ⟨rfl, rfl, rfl, rfl, rfl, rfl, rfl⟩
    · exact normal_send_unbroken (s := { s with schedule := l, pick := k }) (c.congr {} rfl rfl rfl) work
        (st.symm.trans h)
  · rcases step_eq s with ⟨n, l, -, st⟩ | ⟨l, -, st⟩ | ⟨l, k, st⟩
    · cases st.symm.trans h
      exact .inr rfl
    · rcases interruptArrives_cases { s with schedule := l } with ⟨-, outside, -⟩ | ⟨-, lost⟩
      · rw [show s.handler = none from outside] at work; cases work
      · cases (st.trans (congrArg _ lost)).symm.trans h
        exact .inr rfl
    · have context : contextWork { s with schedule := l, pick := k } = .line e :: ws := by simp [contextWork, work]
      have run := st.symm.trans h
      rw [runNext_of_event (nextWork_of_contextWork context) rfl, withContext_of_handler _ (by exact work)] at run
      cases run
      exact .inl rfl

end Sys2Proof.Machine

/-! ### Whole requests (R90, R103, R131, R132, R144, R145) -/

namespace Sys2Proof.Machine

open Sys2Proof

/-! #### A `SETFRAME` left to run -/

/-- The next event of a copy: a cell write while indexes are left, then the request. -/
def copyWork (left frame : List Nat) : Work := if left.isEmpty then .request else .copy left frame

/-- One event of a copy with indexes left: the cell picked is written and its index is gone. -/
theorem step_copy {s : State} {left frame : List Nat} {k : Nat} {l : List Choice} (handler : s.handler = none)
    (normal : s.normal = [copyWork left frame]) (some_left : left ≠ []) (in_range : ∀ i ∈ left, i < 60)
    (size : frame.length = 60) (sched : s.schedule = .advance k :: l) :
    ∃ i v, left[k % left.length]? = some i ∧ frame[i]? = some v ∧ step s = .next { s with
      fb := writeCell s.fb i v, normal := [copyWork (left.eraseIdx (k % left.length)) frame], schedule := l
      pick := k } := by
  have work : s.normal = [.copy left frame] := by rw [normal, copyWork, if_neg (by simpa using some_left)]
  have context : contextWork { s with schedule := l, pick := k } = [.copy left frame] := by
    simp [contextWork, handler, work]
  obtain ⟨i, v, -, picked, value, answer⟩ := copyOne_answers (left := left) (frame := frame)
    { s with normal := [], schedule := l, pick := k } some_left in_range size
  refine ⟨i, v, picked, value, ?_⟩
  rw [step_of_advance sched, runNext_of_event (nextWork_of_contextWork context) rfl,
    withContext_of_normal _ (by exact handler)]
  exact answer.trans (congrArg _ (pushWork_of_normal _ handler))

/-- A copy left to run: every cell still to be written gets the frame's value, and the request is made. -/
theorem run_copy {n : Nat} {s : State} {left frame picks : List Nat} {sched : List Choice} (len : left.length = n)
    (once : left.Nodup) (in_range : ∀ i ∈ left, i < 60) (size : frame.length = 60) (handler : s.handler = none)
    (normal : s.normal = [copyWork left frame]) (count : picks.length = n + 1)
    (choices : s.schedule = picks.map .advance ++ sched) :
    ∃ t, Host.Core.run core (n + 1) s = .next t
      ∧ (∀ j, readCell t.fb j = if j ∈ left then frame[j]? else readCell s.fb j)
      ∧ t = { s with fb := t.fb, framePending := true, normal := [], schedule := sched, pick := t.pick } := by
  induction n generalizing s left picks with
  | zero =>
    obtain ⟨k, rfl⟩ := List.length_eq_one_iff.1 count
    obtain rfl := List.length_eq_zero_iff.1 len
    have choices : s.schedule = .advance k :: sched := choices
    have context : contextWork { s with schedule := sched, pick := k } = [.request] := by
      simp [contextWork, handler, normal, copyWork]
    have last : step s = .next { s with framePending := true, normal := [], schedule := sched, pick := k } := by
      rw [step_of_advance choices, runNext_of_event (nextWork_of_contextWork context) rfl,
        withContext_of_normal _ (by exact handler)]
      rfl
    exact ⟨_, run_next 0 last, fun j => by simp, rfl⟩
  | succ n ih =>
    obtain ⟨k, picks, rfl⟩ := List.exists_cons_of_length_eq_add_one count
    have some_left : left ≠ [] := List.length_pos_iff.1 (by omega)
    obtain ⟨i, v, picked, value, first⟩ := step_copy handler normal some_left in_range size choices
    have small : k % left.length < left.length := Nat.mod_lt _ (by omega)
    have rest := mem_eraseIdx_iff once picked
    obtain ⟨t, run, cells, frame_t⟩ := ih (s := { s with
        fb := writeCell s.fb i v, normal := [copyWork (left.eraseIdx (k % left.length)) frame]
        schedule := picks.map .advance ++ sched, pick := k })
      (by rw [List.length_eraseIdx_of_lt small, len, Nat.add_sub_cancel]) (once.eraseIdx _)
      (fun j hj => in_range j ((rest j).1 hj).1) handler rfl (by simpa using count) rfl
    refine ⟨t, (run_next _ first).trans run, fun j => ?_, frame_t⟩
    rw [cells, readCell_writeCell]
    by_cases here : j = i
    · subst here
      rw [if_neg (fun h => ((rest j).1 h).2 rfl), if_pos rfl, if_pos (List.mem_of_getElem? picked), value]
    · simp only [rest, ne_eq, here, not_false_eq_true, and_true, if_false]

/-- Settles O12: the first event of `SETFRAME` and a copy of the other 59 cells left to run (`run_copy`). -/
theorem setframeRunCopiesAll : Obligations.SetframeRunCopiesAll := by
  intro s frameIn ps picks sched handler normal piecewise program count choices
  obtain ⟨k, picks, rfl⟩ := List.exists_cons_of_length_eq_add_one count
  have choices : s.schedule = .advance k :: (picks.map .advance ++ sched) := choices
  set f := unpackFrame s.cfg.intensityW frameIn
  have size : f.length = 60 := length_unpackFrame _ _
  have small : k % 60 < 60 := Nat.mod_lt _ (by decide)
  have rest := mem_eraseIdx_iff List.nodup_range (show (List.range 60)[k % 60]? = some (k % 60) by simp [small])
  have work : copyWork ((List.range 60).eraseIdx (k % 60)) f = .copy ((List.range 60).eraseIdx (k % 60)) f :=
    if_neg (by rw [range_eraseIdx_not_empty small]; decide)
  obtain ⟨v, value, answer⟩ := exec_setframe_first
    (s := { s with program := ps, schedule := picks.map .advance ++ sched, pick := k }) handler size piecewise
  have first : step s = .next { s with
      fb := writeCell s.fb (k % 60) v, normal := [copyWork ((List.range 60).eraseIdx (k % 60)) f], program := ps
      schedule := picks.map .advance ++ sched, pick := k } := by
    rw [step_of_advance choices]
    refine (runNext_of_program (s := { s with schedule := picks.map .advance ++ sched, pick := k })
      handler normal program).trans ((runCode_of_decode (i := .setframe f) rfl).trans (answer.trans (congrArg _ ?_)))
    rw [pushWork_of_normal _ (by exact handler), work]
    simp [normal]
  obtain ⟨t, run, cells, frame_t⟩ := run_copy (n := 59) (s := { s with
      fb := writeCell s.fb (k % 60) v, normal := [copyWork ((List.range 60).eraseIdx (k % 60)) f], program := ps
      schedule := picks.map .advance ++ sched, pick := k })
    (by rw [List.length_eraseIdx_of_lt (by simpa using small), List.length_range]) (List.nodup_range.eraseIdx _)
    (fun j hj => List.mem_range.1 ((rest j).1 hj).1) size handler rfl (by simpa using count) rfl
  refine ⟨t, (run_next 60 first).trans run, fun j hj => ?_, fun j hj => ?_, frame_t.trans (by rw [normal])⟩
  · rw [cells, readCell_writeCell]
    have copied : f[j]? = some (frameIn / 2 ^ (s.cfg.intensityW * j) % 2 ^ s.cfg.intensityW) :=
      unpackFrame_getElem? _ _ hj
    by_cases here : j = k % 60
    · rw [if_neg (fun h => ((rest j).1 h).2 here), if_pos here, ← copied, here]
      exact value.symm
    · rw [if_pos ((rest j).2 ⟨List.mem_range.2 hj, here⟩), copied]
  · rw [cells, if_neg (fun h => absurd (List.mem_range.1 ((rest j).1 h).1) (by omega)),
      readCell_writeCell_other _ _ _ _ (by omega)]

/-! #### The `StepCore` of ComputeRow, in either context -/

theorem contextWork_withContext (ws : List Work) (s : State) : contextWork (withContext ws s) = ws := by
  rcases context : s.handler with _ | l <;> simp [contextWork, context]

/-- Line events at the head of the current context's list, each made after its wait. -/
theorem run_lines_context {l : List LineEvent} {waits : List Nat} {s : State} {ws : List Work} {sched : List Choice}
    (len : waits.length = l.length) (context : contextWork s = l.map .line ++ ws)
    (choices : s.schedule = paced waits ++ sched) (pick : s.pick = 0) :
    Host.Core.run core (paced waits).length s = .next (withContext ws { lineWrites l s with
      normal := s.normal, handler := s.handler, schedule := sched, pick := 0, tau := s.tau + waits.sum }) := by
  rcases handler : s.handler with _ | hs
  · have normal : s.normal = l.map .line ++ ws := by simpa [contextWork, handler] using context
    exact run_lines l waits len handler normal choices pick
  · have handler' : s.handler = some (l.map .line ++ ws) := by simpa [contextWork, handler] using context
    exact run_lines_handler l waits len handler' choices pick

/-- The dispatch of `StepCore` in ComputeRow. -/
theorem step_dispatch_computerow {s : State} {cells : List Nat} {rest : List Work} {l : List Choice}
    (context : contextWork s = .dispatch :: rest) (state : s.state = 2) (range : cursorInRange s = true)
    (read : readRow s.fb s.row = some cells) (choices : s.schedule = .advance 0 :: l) :
    step s = .next (withContext
      (.run (.serial (serialCells (shiftWord (rowBits s.row) (colMask cells s.pass)))) :: .shown :: rest)
      { s with schedule := l, pick := 0 }) := by
  have arm : decode s.cfg (.state s.state) = .ok .stepComputerow := by rw [state]; rfl
  rw [step_of_advance choices,
    runNext_of_code (nextWork_of_contextWork (s := { s with schedule := l, pick := 0 }) context) rfl]
  exact (runCode_of_decode (s := withContext rest { s with schedule := l, pick := 0 }) arm).trans
    ((execStepComputerow_next (s := withContext rest { s with schedule := l, pick := 0 }) range read).trans
      (congrArg _ (pushWork_withContext _ _ _)))

/-- The first event of the `SEND` of a word handed to the transport. -/
theorem step_handed {s : State} {w : ShiftWord} {rest : List Work} {l : List Choice}
    (context : contextWork s = .run (.serial (serialCells w)) :: rest) (choices : s.schedule = .advance 0 :: l) :
    step s = .next (withContext ((sendTail s.cfg.oeBlankLevel w).map .line ++ rest)
      { lineWrite ⟨.oe, s.cfg.oeBlankLevel⟩ s with schedule := l, pick := 0 }) := by
  rw [step_of_advance choices,
    runNext_of_code (nextWork_of_contextWork (s := { s with schedule := l, pick := 0 }) context) rfl,
    runCode_of_decode (decode_serialCells _ w)]
  exact congrArg Host.Outcome.next (pushWork_withContext _ rest
    { lineWrite ⟨.oe, s.cfg.oeBlankLevel⟩ s with schedule := l, pick := 0 })

/-- The stamp. -/
theorem step_shown {s : State} {rest : List Work} {l : List Choice} (context : contextWork s = .shown :: rest)
    (choices : s.schedule = .advance 0 :: l) :
    step s = .next (withContext rest { s with lastAction := now s, state := 3, schedule := l, pick := 0 }) := by
  rw [step_of_advance choices,
    runNext_of_event (nextWork_of_contextWork (s := { s with schedule := l, pick := 0 }) context) rfl]
  rfl

/-- The lines and the external register as `SEND(w)` leaves them, with its events in the trace (R122, R125). -/
abbrev afterSend (w : ShiftWord) (s : State) : State := { s with
  data := w.getLsbD 0
  clk := true
  oe := !s.cfg.oeBlankLevel
  sr := (w <<< 1) ||| (BitVec.ofBool (w.getLsbD 0)).setWidth 16
  qr := w
  trace := s.trace ++ sendEvents s.cfg.oeBlankLevel w }

/-- The whole `SEND` of a word handed to the transport, each event after its wait. -/
theorem run_send {s : State} {w : ShiftWord} {rest : List Work} {first : Nat} {waits : List Nat} {sched : List Choice}
    (context : contextWork s = .run (.serial (serialCells w)) :: rest) (len : waits.length = 51)
    (choices : s.schedule = paced (first :: waits) ++ sched) :
    Host.Core.run core (paced (first :: waits)).length s = .next (withContext rest { afterSend w s with
      tau := s.tau + first + waits.sum, schedule := sched, pick := 0 }) := by
  rw [run_paced_cons choices (step_handed (s := { s with
      tau := s.tau + first, schedule := .advance 0 :: (paced waits ++ sched) }) context rfl),
    run_lines_context (l := sendTail s.cfg.oeBlankLevel w) len (contextWork_withContext _ _) rfl rfl]
  set begun := withContext ((sendTail s.cfg.oeBlankLevel w).map .line ++ rest)
    { s with tau := s.tau + first, schedule := paced waits ++ sched, pick := 0 }
  have sent : lineWrites (sendTail s.cfg.oeBlankLevel w) (lineWrite ⟨.oe, s.cfg.oeBlankLevel⟩ begun)
      = afterSend w begun := sendLeavesWordOnOutputs begun w
  have same : withContext rest { afterSend w begun with
      normal := begun.normal, handler := begun.handler, schedule := sched, pick := 0, tau := begun.tau + waits.sum }
      = withContext rest { afterSend w s with tau := s.tau + first + waits.sum, schedule := sched, pick := 0 } := by
    rcases handler : s.handler with _ | l <;> simp [begun, withContext, handler]
  rw [← sent] at same
  exact congrArg Host.Outcome.next same

theorem paced_nil : paced [] = [] := rfl

/-- The `StepCore` of ComputeRow, each event after its wait: the dispatch, the 52 line events and the stamp. -/
theorem run_computerow {s : State} {cells : List Nat} {rest : List Work} {select first : Nat} {waits : List Nat}
    {stamp : Nat} {sched : List Choice} (context : contextWork s = .dispatch :: rest) (state : s.state = 2)
    (range : cursorInRange s = true) (read : readRow s.fb s.row = some cells) (len : waits.length = 51)
    (choices : s.schedule = paced (select :: (first :: waits ++ [stamp])) ++ sched) :
    Host.Core.run core (paced (select :: (first :: waits ++ [stamp]))).length s = .next (withContext rest
      { afterSend (shiftWord (rowBits s.row) (colMask cells s.pass)) s with
        state := 3
        lastAction := (s.tau + select + first + waits.sum + stamp) % 2 ^ s.cfg.timeW
        tau := s.tau + select + first + waits.sum + stamp
        schedule := sched
        pick := 0 }) := by
  rw [run_paced_cons choices (step_dispatch_computerow (s := { s with
      tau := s.tau + select, schedule := .advance 0 :: (paced (first :: waits ++ [stamp]) ++ sched) })
    context state range read rfl), paced_append, List.length_append,
    run_add _ (run_send (sched := paced [stamp] ++ sched) (contextWork_withContext _ _) len (by simp)),
    run_paced_cons rfl (step_shown (by exact contextWork_withContext _ _) rfl)]
  refine congrArg Host.Outcome.next (?_ : (_ : State) = _)
  rcases handler : s.handler with _ | l <;> simp [withContext, now, handler, paced_nil]

/-- The state in which a `STEP` that passed its entry check has yet to select its arm. -/
abbrev entered (ps : List PortInput) (l : List Choice) (s : State) : State := { s with
  busy := true, ie := true, ieTrace := s.ieTrace ++ [false, true], normal := [.dispatch, .phase3], program := ps
  schedule := l, pick := 0 }

/-- The entry check of a `STEP` on the ports. -/
theorem step_enters {s : State} {ps : List PortInput} {l : List Choice} (handler : s.handler = none)
    (normal : s.normal = []) (free : s.busy = false) (late : 2 ≤ sinceLastAction s)
    (program : s.program = stepPort :: ps) (choices : s.schedule = .advance 0 :: l) :
    step s = .next (entered ps l s) := by
  rw [step_of_advance choices,
    runNext_of_program (s := { s with schedule := l, pick := 0 }) handler normal program,
    runCode_of_decode (i := .step) rfl]
  refine (stepPassesEntryCheck { s with program := ps, schedule := l, pick := 0 } handler free late).trans ?_
  rw [normal]

/-- Phase 3 of a `STEP`. -/
theorem step_phase3 {s : State} {l : List Choice} (handler : s.handler = none) (normal : s.normal = [.phase3])
    (choices : s.schedule = .advance 0 :: l) : step s = .next { s with
      busy := false, ie := true, ieTrace := s.ieTrace ++ [false, true], outcome := 0b00#2, normal := [], schedule := l
      pick := 0 } :=
  (stampAndPhase3Events s 0 l [] (.inl choices)).2.2 handler normal

/-- Settles O40: the entry check, the `StepCore` of ComputeRow (`run_computerow`) and phase 3. -/
theorem stepInComputeRowSendsWord : Obligations.StepInComputeRowSendsWord := by
  intro s cells ps entry during stamp finish sched waits handler normal free count late state range read program choices
  obtain ⟨select, rest, rfl⟩ := List.exists_cons_of_length_eq_add_one count
  obtain ⟨first, lines, rfl⟩ := List.exists_cons_of_length_eq_add_one (Nat.succ.inj count)
  have len : lines.length = 51 := by simpa using count
  have split : waits = entry :: (select :: (first :: lines ++ [stamp]) ++ [finish]) := by simp [waits]
  rw [split] at choices ⊢
  intro w
  refine (run_paced_cons choices (step_enters handler normal free late program rfl)).trans ?_
  rw [paced_append, List.length_append]
  refine (run_add _ (run_computerow (s := entered ps _ { s with
      tau := s.tau + entry
      schedule := .advance 0 :: (paced (select :: (first :: lines ++ [stamp]) ++ [finish]) ++ sched) })
    (sched := paced [finish] ++ sched) (rest := [.phase3]) (by simp [contextWork, handler]) state range read len
    (List.append_assoc _ _ _))).trans ?_
  rw [withContext_of_normal _ (by exact handler)]
  refine (run_paced_cons rfl (step_phase3 (by exact handler) rfl rfl)).trans ?_
  refine congrArg Host.Outcome.next (?_ : (_ : State) = _)
  simp [normal, free, paced_nil, w, Nat.add_assoc]

/-- The handler's `STEPIRQ` with `busy` at 0. -/
theorem step_stepirq {s : State} {ws : List Work} {l : List Choice}
    (handler : s.handler = some (.run stepirqCode :: ws)) (masked : s.ie = false) (free : s.busy = false)
    (choices : s.schedule = .advance 0 :: l) :
    step s = .next { s with
      handler := some (.dispatch :: .run (.outcome executedCode) :: ws), schedule := l, pick := 0 } := by
  have context : contextWork { s with schedule := l, pick := 0 } = .run stepirqCode :: ws := by
    simp [contextWork, handler]
  rw [step_of_advance choices, runNext_of_code (nextWork_of_contextWork context) rfl,
    withContext_of_handler _ (by exact handler), runCode_of_decode (i := .stepirq) rfl]
  exact stepirqSkipsOrDispatches.2 _ ws rfl masked free

/-- The handler's report of Executed. -/
theorem step_outcome {s : State} {ws : List Work} {l : List Choice}
    (handler : s.handler = some (.run (.outcome executedCode) :: ws)) (choices : s.schedule = .advance 0 :: l) :
    step s = .next { s with outcome := 0b00#2, handler := some ws, schedule := l, pick := 0 } := by
  have context : contextWork { s with schedule := l, pick := 0 } = .run (.outcome executedCode) :: ws := by
    simp [contextWork, handler]
  rw [step_of_advance choices, runNext_of_code (nextWork_of_contextWork context) rfl,
    withContext_of_handler _ (by exact handler)]
  rfl

/-- The handler's return. -/
theorem step_leave {s : State} {l : List Choice} (handler : s.handler = some [.leave])
    (choices : s.schedule = .advance 0 :: l) :
    step s = .next { s with ie := true, handler := none, schedule := l, pick := 0 } := by
  have context : contextWork { s with schedule := l, pick := 0 } = [.leave] := by simp [contextWork, handler]
  rw [step_of_advance choices, runNext_of_event (nextWork_of_contextWork context) rfl,
    withContext_of_handler _ (by exact handler)]
  rfl

/-- Settles O41: the arrival, `STEPIRQ`, the `StepCore` of ComputeRow (`run_computerow`), the outcome and the return. -/
theorem stepirqInComputeRowSendsWord : Obligations.StepirqInComputeRowSendsWord := by
  intro s cells during stamp report leave sched waits handler enabled free count state range read choices
  obtain ⟨enter, rest, rfl⟩ := List.exists_cons_of_length_eq_add_one count
  obtain ⟨select, rest, rfl⟩ := List.exists_cons_of_length_eq_add_one (Nat.succ.inj count)
  obtain ⟨first, lines, rfl⟩ := List.exists_cons_of_length_eq_add_one (Nat.succ.inj (Nat.succ.inj count))
  have len : lines.length = 51 := by simpa using count
  have split : waits = enter :: (select :: (first :: lines ++ [stamp]) ++ [report, leave]) := by simp [waits]
  rw [split] at choices ⊢
  intro w
  have arrives : step s = .next (takeInterrupt { s with
      schedule := paced (enter :: (select :: (first :: lines ++ [stamp]) ++ [report, leave])) ++ sched }) :=
    (step_irq choices).trans (congrArg _ (interruptArrives_taken enabled handler))
  refine (run_next _ arrives).trans ((run_paced_cons (s := takeInterrupt { s with
      schedule := paced (enter :: (select :: (first :: lines ++ [stamp]) ++ [report, leave])) ++ sched }) rfl
    (step_stepirq (s := { takeInterrupt s with
    tau := s.tau + enter
    schedule := .advance 0 :: (paced (select :: (first :: lines ++ [stamp]) ++ [report, leave]) ++ sched) })
    rfl rfl free rfl)).trans ?_)
  rw [paced_append, List.length_append]
  refine (run_add _ (run_computerow (s := { takeInterrupt s with
      tau := s.tau + enter, handler := some [.dispatch, .run (.outcome executedCode), .leave]
      schedule := paced (select :: (first :: lines ++ [stamp])) ++ paced [report, leave] ++ sched, pick := 0 })
    (sched := paced [report, leave] ++ sched) rfl state range read len (List.append_assoc _ _ _))).trans ?_
  rw [withContext_of_handler _ (by rfl)]
  refine (run_paced_cons rfl (step_outcome rfl rfl)).trans ((run_paced_cons rfl (step_leave rfl rfl)).trans ?_)
  refine congrArg Host.Outcome.next (?_ : (_ : State) = _)
  simp [handler, enabled, free, paced_nil, w, Nat.add_assoc]

end Sys2Proof.Machine

/-! ### A whole sweep by back-to-back `STEP`s (R110) -/

namespace Sys2Proof.Machine

open Sys2Proof

/-! #### The requests of a sweep -/

theorem paced_zeros (n : Nat) : paced (List.replicate n 0) = List.replicate n (.advance 0) := by
  induction n with
  | zero => rfl
  | succ n ih => rw [List.replicate_succ, List.replicate_succ, ← ih]; rfl

theorem run_tick {s : State} {n : Nat} {l : List Choice} (choices : s.schedule = .tick n :: l) :
    Host.Core.run core 1 s = .next { s with tau := s.tau + (n + 1), schedule := l } := by
  have ticks : step s = .next { s with tau := s.tau + (n + 1), schedule := l } := by
    simp only [step, choices]
    rfl
  exact run_next 0 ticks

/-- The sample taken `d` microseconds after a stamp sees them all, in a time width that holds them. -/
theorem sinceLastAction_after {s : State} {τ d : Nat} (tau : s.tau = τ + d) (stamp : s.lastAction = τ % 2 ^ s.cfg.timeW)
    (fits : d < 2 ^ s.cfg.timeW) : sinceLastAction s = d := by
  rw [sinceLastAction, now, tau, stamp, elapsed_add, Nat.mod_eq_of_lt fits]

/-- Two microseconds or more after a stamp the entry check passes. -/
theorem late_after {s : State} {τ d : Nat} (tau : s.tau = τ + d) (stamp : s.lastAction = τ % 2 ^ s.cfg.timeW)
    (fits : d < 2 ^ s.cfg.timeW) (two : 2 ≤ d) : 2 ≤ sinceLastAction s := by
  rw [sinceLastAction_after tau stamp fits]
  exact two

/-- A `STEP` whose arm is one event takes three: the entry check, the arm and phase 3. -/
theorem run_step_of_arm {s u : State} {ps : List PortInput} {l : List Choice} (handler : s.handler = none)
    (normal : s.normal = []) (free : s.busy = false) (late : 2 ≤ sinceLastAction s)
    (program : s.program = stepPort :: ps) (choices : s.schedule = List.replicate 3 (.advance 0) ++ l)
    (arm : exec (decodeState s.state) { entered ps (.advance 0 :: l) s with normal := [.phase3] } = .next u)
    (same : u = { s with
      state := u.state, row := u.row, pass := u.pass, lastAction := u.lastAction, framePending := u.framePending
      busy := true, ie := true, ieTrace := s.ieTrace ++ [false, true], normal := [.phase3], program := ps
      schedule := .advance 0 :: l, pick := 0 }) :
    Host.Core.run core 3 s = .next { s with
      state := u.state, row := u.row, pass := u.pass, lastAction := u.lastAction, framePending := u.framePending
      busy := false, ie := true, ieTrace := s.ieTrace ++ [false, true, false, true], outcome := 0b00#2, normal := []
      program := ps, schedule := l, pick := 0 } := by
  have enters := step_enters (l := .advance 0 :: .advance 0 :: l) handler normal free late program choices
  have selects : step (entered ps (.advance 0 :: .advance 0 :: l) s) = .next u := by
    have context : contextWork { entered ps (.advance 0 :: l) s with pick := 0 } = [.dispatch, .phase3] := by
      simp [contextWork, handler]
    rw [step_of_advance rfl, runNext_of_code (nextWork_of_contextWork context) rfl,
      withContext_of_normal _ (by exact handler)]
    exact (runCode_of_decode rfl).trans arm
  have ends := step_phase3 (s := u) (l := l) (by rw [same]; exact handler) (by rw [same]) (by rw [same])
  refine (run_next 2 enters).trans ((run_next 1 selects).trans ((run_next 0 ends).trans ?_))
  refine congrArg Host.Outcome.next (?_ : (_ : State) = _)
  rw [same]
  simp

/-- The word of a cursor of a sweep, by its number. -/
theorem sweepWord_eq (fb : List Cell) {m r p : Nat} (inside : p ≤ m) :
    sweepWord fb m (r * (m + 1) + p) = shiftWord (rowBits r) (colMask ((readRow fb r).getD []) p) := by
  have row : (r * (m + 1) + p) / (m + 1) = r := by
    rw [Nat.mul_comm, Nat.mul_add_div (by omega), Nat.div_eq_of_lt (by omega), Nat.add_zero]
  have pass : (r * (m + 1) + p) % (m + 1) = p := by
    rw [Nat.mul_comm, Nat.mul_add_mod, Nat.mod_eq_of_lt (by omega)]
  rw [sweepWord, row, pass]

/-! #### The states between the words -/

/-- The words of a sweep. -/
abbrev sweepLength (s₀ : State) : Nat := 10 * (s₀.cfg.maxIntensity.val + 1)

/-- Where a sweep begun in `s₀` stands with `k` words sent and nothing in flight. -/
structure SweepAt (s₀ : State) (ps : List PortInput) (sched : List Choice) (k : Nat) (s : State) : Prop where
  cfg : s.cfg = s₀.cfg
  fb : s.fb = s₀.fb
  handler : s.handler = none
  normal : s.normal = []
  busy : s.busy = false
  framePending : s.framePending = false
  late : 2 ≤ sinceLastAction s
  program : s.program = List.replicate (2 * (sweepLength s₀ - k)) stepPort ++ ps
  schedule : s.schedule = (List.replicate (sweepLength s₀ - k) wordVisit).flatten ++ sched
  tau : s.tau = s₀.tau + 2 + 500 * k
  trace : s.trace = s₀.trace ++ (List.range k).flatMap fun j =>
    sendEvents s₀.cfg.oeBlankLevel (sweepWord s₀.fb s₀.cfg.maxIntensity.val j)
  shown : 0 < k → s.qr = sweepWord s₀.fb s₀.cfg.maxIntensity.val (k - 1)
  inside : k < sweepLength s₀ → s.state = 2 ∧ s.row < 10 ∧ s.pass ≤ s₀.cfg.maxIntensity.val
    ∧ k = s.row * (s₀.cfg.maxIntensity.val + 1) + s.pass
  ended : k = sweepLength s₀ → s.state = 0 ∧ s.row = 0 ∧ s.pass = 0

/-- A `STEP` in ComputeRow with no time passing between its 56 events. -/
theorem run_word {s : State} {cells : List Nat} {ps : List PortInput} {l : List Choice} (handler : s.handler = none)
    (normal : s.normal = []) (free : s.busy = false) (late : 2 ≤ sinceLastAction s) (state : s.state = 2)
    (range : cursorInRange s = true) (read : readRow s.fb s.row = some cells) (program : s.program = stepPort :: ps)
    (choices : s.schedule = List.replicate 56 (.advance 0) ++ l) :
    Host.Core.run core 56 s = .next { afterSend (shiftWord (rowBits s.row) (colMask cells s.pass)) s with
      state := 3, lastAction := now s, ie := true, ieTrace := s.ieTrace ++ [false, true, false, true]
      outcome := 0b00#2, program := ps, schedule := l, pick := 0 } := by
  have waits : paced (0 :: List.replicate 53 0 ++ [0, 0]) = List.replicate 56 (.advance 0) := paced_zeros 56
  have run := stepInComputeRowSendsWord s cells ps 0 (List.replicate 53 0) 0 0 l handler normal free
    List.length_replicate late state range read program (by rw [waits]; exact choices)
  simp only [waits, List.length_replicate, List.sum_replicate, Nat.add_zero, smul_zero] at run
  exact run

/-- The cursor that `Advance` leaves is that of the next word's number, or the end of the sweep. -/
theorem next_cursor {m r p k st' r' p' : Nat} (row : r < 10) (pass : p ≤ m) (number : k = r * (m + 1) + p)
    (inner : p + 1 ≤ m → p' = p + 1 ∧ r' = r ∧ st' = 2) (outer : p = m → r ≤ 8 → p' = 0 ∧ r' = r + 1 ∧ st' = 2)
    (final : p = m → r = 9 → p' = 0 ∧ r' = 0 ∧ st' = 0) :
    (k + 1 < 10 * (m + 1) → st' = 2 ∧ r' < 10 ∧ p' ≤ m ∧ k + 1 = r' * (m + 1) + p')
    ∧ (k + 1 = 10 * (m + 1) → st' = 0 ∧ r' = 0 ∧ p' = 0) := by
  have rows : r * (m + 1) ≤ 9 * (m + 1) := Nat.mul_le_mul_right _ (by omega)
  by_cases more : p + 1 ≤ m
  · obtain ⟨rfl, rfl, rfl⟩ := inner more
    exact ⟨fun _ => ⟨rfl, row, more, by omega⟩, fun _ => by omega⟩
  · obtain rfl : p = m := by omega
    by_cases last : r = 9
    · obtain ⟨rfl, rfl, rfl⟩ := final rfl last
      subst last
      exact ⟨fun _ => by omega, fun _ => ⟨rfl, rfl, rfl⟩⟩
    · obtain ⟨rfl, rfl, rfl⟩ := outer rfl (by omega)
      have above : r * (p + 1) ≤ 8 * (p + 1) := Nat.mul_le_mul_right _ (by omega)
      exact ⟨fun _ => ⟨rfl, by omega, Nat.zero_le _, by rw [number, Nat.succ_mul]; rfl⟩, fun _ => by omega⟩

/-- The display interval and the `STEP` that advances the cursor, after the stamp of a word. -/
theorem run_advance {s : State} {ps : List PortInput} {l : List Choice} {τ : Nat} (handler : s.handler = none)
    (normal : s.normal = []) (free : s.busy = false) (state : s.state = 3) (stamp : s.lastAction = τ % 2 ^ s.cfg.timeW)
    (tau : s.tau = τ) (fits : 500 < 2 ^ s.cfg.timeW) (range : cursorInRange s = true)
    (program : s.program = stepPort :: ps) (choices : s.schedule = .tick 499 :: (List.replicate 3 (.advance 0) ++ l)) :
    ∃ st r p, Host.Core.run core 4 s = .next { s with
        state := st, row := r, pass := p, ie := true, ieTrace := s.ieTrace ++ [false, true, false, true]
        outcome := 0b00#2, tau := s.tau + 500, program := ps, schedule := l, pick := 0 }
      ∧ (s.pass + 1 ≤ s.cfg.maxIntensity.val → p = s.pass + 1 ∧ r = s.row ∧ st = 2)
      ∧ (s.pass = s.cfg.maxIntensity.val → s.row ≤ 8 → p = 0 ∧ r = s.row + 1 ∧ st = 2)
      ∧ (s.pass = s.cfg.maxIntensity.val → s.row = 9 → p = 0 ∧ r = 0 ∧ st = 0) := by
  obtain ⟨row, pass⟩ := (cursorInRange_iff s).1 range
  have passed : sinceLastAction { s with
      tau := s.tau + 500, schedule := List.replicate 3 (.advance 0) ++ l } = 500 :=
    sinceLastAction_after (τ := τ) (by rw [tau]) stamp fits
  obtain ⟨u, arm, same, inner, outer, final⟩ := displayArmHoldsThenAdvances.2
    { entered ps (.advance 0 :: l) { s with tau := s.tau + 500, schedule := List.replicate 3 (.advance 0) ++ l } with
      normal := [.phase3] }
    (Nat.le_of_eq passed.symm) (Nat.le_of_lt_succ row) pass
  have stamped : u.lastAction = s.lastAction := (congrArg State.lastAction same :)
  have pending : u.framePending = s.framePending := (congrArg State.framePending same :)
  have select : decodeState s.state = .stepDisplayrow := by rw [state]; rfl
  have advances := run_step_of_arm
    (s := { s with tau := s.tau + 500, schedule := List.replicate 3 (.advance 0) ++ l }) handler normal free
    (by rw [passed]; decide) program rfl ((congrArg (exec · _) select).trans arm) (by rw [stamped, pending]; exact same)
  refine ⟨u.state, u.row, u.pass, (run_add 3 (run_tick choices)).trans (advances.trans ?_), inner, outer, final⟩
  refine congrArg Host.Outcome.next (?_ : (_ : State) = _)
  rw [stamped, pending, normal, free]

/-- One word of a sweep: the `STEP` that sends it, the display interval, the `STEP` that advances the cursor. -/
theorem run_wordVisit {s₀ s : State} {ps : List PortInput} {sched : List Choice} {k : Nat}
    (written : frameWritten s₀.fb) (fits : 500 < 2 ^ s₀.cfg.timeW) (at_k : SweepAt s₀ ps sched k s)
    (more : k < sweepLength s₀) :
    ∃ t, Host.Core.run core 60 s = .next t ∧ SweepAt s₀ ps sched (k + 1) t := by
  obtain ⟨state, row, pass, number⟩ := at_k.inside more
  have range : cursorInRange s = true := (cursorInRange_iff s).2 ⟨row, by rw [at_k.cfg]; exact pass⟩
  obtain ⟨cells, read, -⟩ := readRow_written (m := s.fb) (r := s.row) fun c hc => by
    rw [at_k.fb]
    exact written _ (by rw [numCells]; omega)
  have left : sweepLength s₀ - k = sweepLength s₀ - (k + 1) + 1 := by omega
  have program := at_k.program
  have choices := at_k.schedule
  rw [left, Nat.mul_succ, List.replicate_succ, List.replicate_succ] at program
  rw [left, List.replicate_succ, List.flatten_cons, List.append_assoc, wordVisit, List.append_assoc] at choices
  have sends := run_word at_k.handler at_k.normal at_k.busy at_k.late state range read program choices
  obtain ⟨st, r, p, advances, inner, outer, final⟩ := run_advance
    (s := { afterSend (shiftWord (rowBits s.row) (colMask cells s.pass)) s with
      state := 3, lastAction := now s, ie := true, ieTrace := s.ieTrace ++ [false, true, false, true]
      outcome := 0b00#2, program := _, schedule := _, pick := 0 })
    (τ := s.tau) at_k.handler at_k.normal at_k.busy rfl rfl rfl (by rw [at_k.cfg]; exact fits) range rfl rfl
  have word : shiftWord (rowBits s.row) (colMask cells s.pass) = sweepWord s₀.fb s₀.cfg.maxIntensity.val k := by
    rw [number, sweepWord_eq _ pass, ← at_k.fb, read]
    rfl
  obtain ⟨inside, ended⟩ := next_cursor row pass number (by rw [← at_k.cfg]; exact inner)
    (by rw [← at_k.cfg]; exact outer) (by rw [← at_k.cfg]; exact final)
  refine ⟨_, (run_add 4 sends).trans advances, ?_⟩
  constructor
  case cfg => exact at_k.cfg
  case fb => exact at_k.fb
  case handler => exact at_k.handler
  case normal => exact at_k.normal
  case busy => exact at_k.busy
  case framePending => exact at_k.framePending
  case late => exact late_after (τ := s.tau) (d := 500) rfl rfl (by rw [at_k.cfg]; exact fits) (by decide)
  case program => rfl
  case schedule => rfl
  case tau =>
    show s.tau + 500 = _
    rw [at_k.tau]
    omega
  case trace =>
    show s.trace ++ sendEvents s.cfg.oeBlankLevel _ = _
    rw [at_k.trace, at_k.cfg, word, List.range_succ, List.flatMap_append, List.append_assoc, List.flatMap_singleton]
  case shown => exact fun _ => word
  case inside => exact inside
  case ended => exact ended

/-- The words of a sweep that are left, one visit each. -/
theorem run_wordVisits {s₀ s : State} {ps : List PortInput} {sched : List Choice} {k j : Nat}
    (written : frameWritten s₀.fb) (fits : 500 < 2 ^ s₀.cfg.timeW) (at_k : SweepAt s₀ ps sched k s)
    (left : j + k = sweepLength s₀) :
    ∃ t, Host.Core.run core (60 * j) s = .next t ∧ SweepAt s₀ ps sched (sweepLength s₀) t := by
  induction j generalizing k s with
  | zero =>
    obtain rfl : k = sweepLength s₀ := by omega
    exact ⟨s, rfl, at_k⟩
  | succ j ih =>
    obtain ⟨u, visit, at_next⟩ := run_wordVisit written fits at_k (by omega)
    obtain ⟨t, rest, at_end⟩ := ih at_next (by omega)
    exact ⟨t, by rw [Nat.mul_succ, Nat.add_comm]; exact (run_add _ visit).trans rest, at_end⟩

/-- The Idle and the NewData `STEP`s of a sweep and the minimum interval after them. -/
theorem run_sweep_start {s : State} {ps : List PortInput} {sched : List Choice} (handler : s.handler = none)
    (normal : s.normal = []) (free : s.busy = false) (state : s.state = 0) (pending : s.framePending = true)
    (late : 2 ≤ sinceLastAction s) (fits : 500 < 2 ^ s.cfg.timeW)
    (program : s.program = List.replicate (2 + 2 * sweepLength s) stepPort ++ ps)
    (choices : s.schedule = sweepSchedule s.cfg.maxIntensity.val ++ sched) :
    ∃ t, Host.Core.run core 7 s = .next t ∧ SweepAt s ps sched 0 t := by
  rw [Nat.add_comm, List.replicate_succ, List.replicate_succ] at program
  have choices : s.schedule = List.replicate 3 (.advance 0) ++ (List.replicate 3 (.advance 0) ++
      .tick 1 :: ((List.replicate (sweepLength s) wordVisit).flatten ++ sched)) := choices
  have select : decodeState s.state = .stepIdle := by rw [state]; rfl
  have idle := run_step_of_arm handler normal free late program choices
    ((congrArg (exec · _) select).trans (exec_stepIdle_pending pending)) rfl
  have newdata := run_step_of_arm (s := { s with
      state := 1, framePending := false, busy := false, ie := true
      ieTrace := s.ieTrace ++ [false, true, false, true], outcome := 0b00#2, normal := []
      program := _, schedule := _, pick := 0 })
    (ps := List.replicate (2 * sweepLength s) stepPort ++ ps)
    (l := .tick 1 :: ((List.replicate (sweepLength s) wordVisit).flatten ++ sched))
    handler rfl rfl late rfl rfl (exec_stepNewdata _) rfl
  refine ⟨_, (run_add 4 idle).trans ((run_add 1 newdata).trans (run_tick rfl)), ?_⟩
  constructor
  case cfg => rfl
  case fb => rfl
  case handler => exact handler
  case normal => rfl
  case busy => rfl
  case framePending => rfl
  case late => exact late_after (τ := s.tau) (d := 2) rfl rfl (Nat.lt_trans (by decide) fits) (by decide)
  case program => rfl
  case schedule => rfl
  case tau => rfl
  case trace => exact (List.append_nil _).symm
  case shown => exact fun positive => absurd positive (Nat.lt_irrefl 0)
  case inside => exact fun _ => ⟨rfl, Nat.zero_lt_succ 9, Nat.zero_le _, by simp⟩
  case ended => exact fun none => absurd none (Nat.ne_of_lt (Nat.mul_pos (by decide) (Nat.succ_pos _)))

/-- Settles O42: the start of the sweep, then a visit for each word in turn (`run_wordVisit`). -/
theorem sweepSendsEveryWordOnce : Obligations.SweepSendsEveryWordOnce := by
  intro s ps sched m handler normal free state pending written late fits program choices
  obtain ⟨u, start, at_start⟩ := run_sweep_start handler normal free state pending late fits program choices
  obtain ⟨t, visits, done⟩ := run_wordVisits written fits at_start (j := sweepLength s) rfl
  have length : (sweepSchedule m).length = 7 + 60 * sweepLength s := by
    have visit : wordVisit.length = 60 := rfl
    simp [sweepSchedule, visit, sweepLength, numRows, m]
    omega
  obtain ⟨idle, row, pass⟩ := done.ended rfl
  have some_words : 0 < sweepLength s := Nat.mul_pos (by decide) (Nat.succ_pos _)
  refine ⟨t, by rw [length]; exact (run_add _ start).trans visits, done.trace, done.shown some_words, idle, row, pass,
    done.framePending, done.busy, done.fb, done.cfg, done.normal, done.handler, ?_, ?_, done.tau⟩
  · simpa using done.program
  · simpa using done.schedule

end Sys2Proof.Machine
